-- ==== Sys2Proof/Word.lean ====
section
/-! DEFINITION. The words of the model: bytes of the wire and the flash, and the two kinds of index
that a command may carry.  Everything the manual counts in whole numbers of a unit (5.1 of the scope
file) is a `Nat` or an `Int`; only bytes, CRC registers and flag fields are bit vectors. -/

namespace Sys2Proof

/-- One byte of a frame, of a record slot or of the serial flash. -/
abbrev Byte := BitVec 8

/-- A frame's sequence number, bits 3 to 0 of byte 0 (1.2). -/
abbrev Seq := Fin 16

/-- A timer: stopped, or running with the milliseconds that remain. -/
abbrev Timer := Option Nat

end Sys2Proof
end

