-- ==== Sys2Proof/Syntax.lean ====
section
/-! DEFINITION. The commands of the hub, one constructor of `Instr` per row of
spec/opcode_table.json, with the named fields the chapters give each request or event.  The spec
gives no byte layout for request payloads (5.5), so a request's fields stand here as named fields.
A field whose value the manual names (an enumerated choice) is an `Option`: `none` stands for a value
outside the named ones. -/

namespace Sys2Proof

/-- The two link ports: A faces the cab segment, B the screed segment. -/
inductive Port | A | B
  deriving DecidableEq, Repr

/-- The two sides of the machine, for levelling and feed. -/
inductive Side | left | right
  deriving DecidableEq, Repr

/-- The side that a node table entry gives a node (1.5). -/
inductive NodeSide | A | B | any
  deriving DecidableEq, Repr

/-- The eight frame classes (1.2). -/
inductive FrameClass | sense | command | ack | mgmt | reply | notice | scan | linkctl
  deriving DecidableEq, Repr

/-- The four guards of the pass-through filter (R12). -/
inductive GuardKind | levelL | levelR | feedL | feedR
  deriving DecidableEq, Repr

/-- A filter entry's action (1.6). -/
inductive FilterAction | pass | block | guard (g : GuardKind)
  deriving DecidableEq, Repr

/-- The counting method of the Resistance Measurement Unit (4.2). -/
inductive CountMode | window | period
  deriving DecidableEq, Repr

/-- A levelling side's mode (7.2). -/
inductive LevelMode | manual | grade | slope
  deriving DecidableEq, Repr

/-- A feed side's mode (8.3). -/
inductive FeedMode | manual | auto
  deriving DecidableEq, Repr

/-- The end of the profile table that the protection descriptor counts from (7.8). -/
inductive Anchor | first | last
  deriving DecidableEq, Repr

/-- The lock mode of the profile (7.8). -/
inductive LockMode | opened | key | frozen
  deriving DecidableEq, Repr

/-- What happens when the archive's ring comes round to records (11.1). -/
inductive Policy | wrap | halt
  deriving DecidableEq, Repr

/-- A condition kind's severity (12.4). -/
inductive Severity | ignore | note | alert | stop
  deriving DecidableEq, Repr

/-- The fields of a node table write (1.5): the side and the role label's characters. -/
structure NodeWrite where
  side : Option NodeSide
  role : List Byte
  deriving DecidableEq, Repr

/-- The fields of a filter write (1.6).  `none` for a node is ANY. -/
structure FilterWrite where
  valid : Bool
  cls : Option FrameClass
  src : Option Nat
  dst : Option Nat
  chanLow : Nat
  chanHigh : Nat
  action : Option FilterAction
  deriving DecidableEq, Repr

/-- The fields of an intake entry (2.2), less its applied count. -/
structure IntakeEntry where
  valid : Bool
  node : Nat
  chan : Nat
  offset : Nat
  width : Nat
  signed : Bool
  mult : Int
  divisor : Int
  add : Int
  slot : Nat
  limit : Nat
  deriving DecidableEq, Repr

/-- The fields of a sensor line entry (4.2). -/
structure SensorEntry where
  r0 : Nat
  sens : Nat
  short : Nat
  opened : Nat
  jump : Nat
  deriving DecidableEq, Repr

/-- The fields of a write of the reference entry (4.2). -/
structure ReferenceWrite where
  mode : Option CountMode
  gate : Nat
  periods : Nat
  rRef : Nat
  refLo : Nat
  refHi : Nat
  deriving DecidableEq, Repr

/-- The travel parameters (3.1): stop speed in cm/min, park time in s, base width in mm. -/
structure TravelParams where
  stopSpeed : Nat
  parkTime : Nat
  baseWidth : Nat
  deriving DecidableEq, Repr

/-- A zone entry (5.1). -/
structure ZoneEntry where
  enable : Bool
  primary : Nat
  spare : Option Nat
  buddy : Option Nat
  buddyOffset : Int
  setpoint : Int
  standby : Int
  warmBand : Int
  gain : Int
  hold : Int
  ceiling : Int
  boostMax : Int
  boostStep : Int
  trigger : Nat
  rating : Nat
  cls : Nat
  first : Nat
  last : Nat
  staleTime : Nat
  deriving DecidableEq, Repr

/-- The budget entry (6.1): W, per cent, select, ms, s, s. -/
structure BudgetEntry where
  nominal : Nat
  sagPercent : Nat
  select : Nat
  debounce : Nat
  recover : Nat
  period : Nat
  deriving DecidableEq, Repr

/-- The fields of a write of one vote table (R93): seven thresholds, or the floor level and the
down-delay. -/
inductive VoteFields
  | thresholds (ts : Vector Nat 7)
  | floorDelay (floor delay : Nat)
  deriving DecidableEq, Repr

/-- A levelling parameter entry (7.1). -/
structure LevelEntry where
  limit : Nat
  engage : Nat
  release : Nat
  jump : Nat
  deadband : Nat
  gain : Nat
  minimum : Nat
  maximum : Nat
  deriving DecidableEq, Repr

/-- A profile entry (7.7). -/
structure ProfileEntry where
  valid : Bool
  station : Int
  left : Int
  right : Int
  slope : Int
  deriving DecidableEq, Repr

/-- The fields of a write of the protection entry (7.8). -/
structure ProtectionWrite where
  anchor : Option Anchor
  span : Nat
  invert : Bool
  lock : Option LockMode
  deriving DecidableEq, Repr

/-- A feed entry (8.1): eight breakpoints of level and speed, the low mark and the starve time. -/
structure FeedEntry where
  points : Vector (Nat × Nat) 8
  lowMark : Nat
  starveTime : Nat
  deriving DecidableEq, Repr

/-- A target row (9.1). -/
structure TargetRow where
  enabled : Bool
  node : Nat
  chan : Nat
  neutral : Int
  timeout : Nat
  deriving DecidableEq, Repr

/-- The map entry (10.1).  `none` for the scanner node is "none". -/
structure MapEntry where
  scanner : Option Nat
  pitch : Nat
  cold : Nat
  seg : Nat
  deriving DecidableEq, Repr

/-- The fields of a write of the archive entry (11.1). -/
structure ArchiveWrite where
  first : Nat
  count : Nat
  size : Nat
  policy : Option Policy
  streaming : Bool
  deriving DecidableEq, Repr

/-- The fields of SET_MODE (R66, R102, R125): the function names which form they take. -/
inductive SetModeFields
  | heat (on : Option Bool)
  | level (side : Side) (mode : Option LevelMode)
  | feed (side : Side) (mode : Option FeedMode)
  | otherFunction
  deriving DecidableEq, Repr

/-- One constructor per row of spec/opcode_table.json.  A request carries its frame's sequence
number; its source is the console node, the only node whose requests the bridge delivers (R8). -/
inductive Instr
  -- events of the link, the local lines, the counter, the flash and the timers
  | powerOnReset
  | frameReceived (port : Port) (clean : Bool) (bytes : List Byte)
  | windowTimerExpires (port : Port)
  | syncTimerExpires (port : Port)
  | retrainAttemptEnds (port : Port)
  | downRetryTimerExpires (port : Port)
  | settleTimerExpires (port : Port)
  | frameSendEnds (port : Port)
  | waitingFrameAdmitted (port : Port)
  | slotStalenessExpires (slot : Fin 9)
  | parkTimerExpires
  | referenceCountEnds (ticks : Nat)
  | firstCountEnds (ticks : Nat)
  | retryCountEnds (ticks : Nat)
  | periodLimitExpires
  | zoneStaleExpires (zone : Fin 16)
  | heaterPeriodStart
  | heaterOnTimeEnds (zone : Fin 16)
  | supplyFalls
  | supplyRises
  | debounceTimerExpires
  | recoverTimerExpires
  | downDelayExpires
  | jobKeyChange (on : Bool)
  | starveTimerExpires (side : Side)
  | ackTimerExpires (target : Fin 7)
  | assemblyWindowExpires
  | recordTaken
  | flushTimerExpires
  | programIssued
  | programComplete
  | programTimerExpires
  | eraseIssued
  | eraseComplete
  | eraseTimerExpires
  | archiveScanEnds
  | fetchRecordRead
  | jobClockAdvance
  -- requests of the console
  | unknownRequest (seq : Seq) (code : Byte)
  | status (seq : Seq) (part : Nat)
  | readEntry (seq : Seq) (table index : Nat)
  | readSlot (seq : Seq) (slot : Nat)
  | readZone (seq : Seq) (zone : Nat)
  | readSide (seq : Seq) (side : Option Side)
  | readFeed (seq : Seq) (side : Option Side)
  | readLine (seq : Seq) (line : Nat)
  | readTarget (seq : Seq) (row : Nat)
  | writeNodeEntry (seq : Seq) (index : Nat) (fields : NodeWrite)
  | writeOwnConsoleNode (seq : Seq) (own console : Nat)
  | writeFilterEntry (seq : Seq) (index : Nat) (fields : FilterWrite)
  | writeIntakeEntry (seq : Seq) (index : Nat) (fields : IntakeEntry)
  | writeSensorEntry (seq : Seq) (index : Nat) (fields : SensorEntry)
  | writeReferenceEntry (seq : Seq) (fields : ReferenceWrite)
  | writeSweepList (seq : Seq) (index : Nat) (lines : List Nat)
  | writeTravelParameters (seq : Seq) (index : Nat) (fields : TravelParams)
  | writeZoneEntry (seq : Seq) (index : Nat) (fields : ZoneEntry)
  | writeBudget (seq : Seq) (index : Nat) (fields : BudgetEntry)
  | writeVoteTable (seq : Seq) (index : Nat) (fields : VoteFields)
  | writeLevellingEntry (seq : Seq) (index : Nat) (fields : LevelEntry)
  | writeProfileEntry (seq : Seq) (index : Nat) (fields : ProfileEntry)
  | writeProtectionEntry (seq : Seq) (index : Nat) (fields : ProtectionWrite)
  | writeFeedEntry (seq : Seq) (index : Nat) (fields : FeedEntry)
  | writeTargetRow (seq : Seq) (index : Nat) (fields : TargetRow)
  | writeMapEntry (seq : Seq) (index : Nat) (fields : MapEntry)
  | writeArchiveEntry (seq : Seq) (index : Nat) (fields : ArchiveWrite)
  | writeConditionSeverity (seq : Seq) (index : Nat) (severity : Option Severity)
  | setModeHeat (seq : Seq) (on : Option Bool)
  | setModeLevel (seq : Seq) (side : Side) (mode : Option LevelMode)
  | setModeFeed (seq : Seq) (side : Side) (mode : Option FeedMode)
  | run (seq : Seq)
  | stop (seq : Seq)
  | resume (seq : Seq)
  | setStation (seq : Seq) (station : BitVec 32)
  | setClock (seq : Seq) (clock : BitVec 32)
  | mark (seq : Seq) (code : BitVec 16)
  | fetch (seq : Seq) (first count : Nat)
  | format (seq : Seq)
  | clearCondition (seq : Seq) (kind : Nat)
  | clearLine (seq : Seq) (line : Nat)
  | resetControl (seq : Seq)
  | controlReset
  deriving DecidableEq, Repr

end Sys2Proof
end

