-- ==== Sys2Proof/Decode.lean ====
section
/-! DEFINITION. The command that a word spells by the opcode table's bits.  No row of this
hardware's table carries bits, so no word spells a command. -/

namespace Sys2Proof

/-- The command that the table's bits spell in `w`: none, since no row has bits. -/
def decodeTableWord (_nbits _w : Nat) : Option Instr := none

end Sys2Proof
end

