-- ==== Sys2Proof/Config.lean ====
section
/-! DEFINITION. The hub's fixed numbers, and the values the spec leaves open as opaque constants:
no proof can see what one of them is, so a claim holds whatever it is. -/

namespace Sys2Proof.Config

/-- Places of an output queue (1.7). -/
def queuePlaces : Nat := 16
/-- Places of an output queue that pass-through frames may take (R15). -/
def passPlaces : Nat := 12
/-- The port error window (R2), ms. -/
def windowTime : Nat := 100
/-- The length of a sync attempt (R4, R5), ms. -/
def attemptTime : Nat := 20
/-- The time between two sync frames of an attempt (R4), ms. -/
def syncTime : Nat := 2
/-- The retry timer of a DOWN port (R5), ms. -/
def downRetryTime : Nat := 1000
/-- The settle timer (R4), ms. -/
def settleTime : Nat := 5
/-- The largest travel delta that is accepted (R32), cm. -/
def jumpLimit : Int := 10000
/-- The limit of a PERIOD mode count (R47), ms. -/
def periodLimit : Nat := 40
/-- The scan assembly window (R145), ms. -/
def assemblyTime : Nat := 100
/-- Records that the record queue holds (R154). -/
def recordPlaces : Nat := 32
/-- Records in the queue at which a fetch ends early (R169). -/
def fetchYield : Nat := 24
/-- The flush timer of the page buffer (R161), ms. -/
def flushTime : Nat := 2000
/-- The program timer (R162), ms. -/
def programTime : Nat := 10
/-- The erase timer (R165), ms. -/
def eraseTime : Nat := 2000
/-- Suspends that one erase allows (R165). -/
def maxSuspends : Nat := 4
/-- Consecutive flash failures that make the archive FAILED (R163). -/
def maxFailures : Nat := 3

/-! ### Free values -/

/-- What the supply comparator finds when a write changes its threshold and it "compares the line
anew" (R89): `supplyBelow n select` is the n-th such comparison, true for below.  The level of the
line is outside the hub.  DESIGN CHOICE, log entry 8. -/
opaque supplyBelow (sample select : Nat) : Bool

/-- A byte read from a place whose page program failed or was cut off, or whose sector's erase did
not complete (R163, R165, R173): the spec says only that such places may be valid, dirty or partly
erased.  `mark` tells one such operation from another.  DESIGN CHOICE, log entry 9. -/
opaque unsettledByte (mark address : Nat) : Byte

/-- The edges that a WINDOW count's gate counts (R46), where the model ends the count itself: the
oscillators are outside the hub.  `count` is the number of the count, `mark` tells one power-on
from another.  DESIGN CHOICE, log entry 57. -/
opaque edgesCounted (mark count line : Nat) : Nat

/-- The record number that follows 4294967295, the last that the slot layout holds (11.2).  DESIGN
CHOICE, log entry 10. -/
opaque numberAfterLast : Nat

/-- The rows counted of a gap whose exact count lies above 4294967295 (10.6).  DESIGN CHOICE, log
entry 11. -/
opaque gapRowsBeyond (exact : Nat) : Nat

/-! ### The layout of request payloads

The spec names each request's fields and gives no byte layout for them (5.5).  Each reader below is
the layout's own: `none` where the payload is too short to hold the fields (R174).  DESIGN CHOICE, log
entry 6. -/

/-- The one number of STATUS, READ_SLOT, READ_ZONE, READ_LINE, READ_TARGET, CLEAR_CONDITION and
CLEAR_LINE, by request code. -/
opaque numberField (code : Nat) (payload : List Byte) : Option Nat
/-- The side that READ_SIDE or READ_FEED names, by request code. -/
opaque sideField (code : Nat) (payload : List Byte) : Option (Option Side)
/-- The table id and index of READ_ENTRY and WRITE_ENTRY. -/
opaque tableFields (payload : List Byte) : Option (Nat × Nat)
opaque setModeFields (payload : List Byte) : Option SetModeFields
opaque stationField (payload : List Byte) : Option (BitVec 32)
opaque clockField (payload : List Byte) : Option (BitVec 32)
opaque markField (payload : List Byte) : Option (BitVec 16)
opaque fetchFields (payload : List Byte) : Option (Nat × Nat)
opaque nodeFields (payload : List Byte) : Option NodeWrite
opaque pairFields (payload : List Byte) : Option (Nat × Nat)
opaque filterFields (payload : List Byte) : Option FilterWrite
opaque intakeFields (payload : List Byte) : Option IntakeEntry
opaque sensorFields (payload : List Byte) : Option SensorEntry
opaque referenceFields (payload : List Byte) : Option ReferenceWrite
opaque sweepFields (payload : List Byte) : Option (List Nat)
opaque travelFields (payload : List Byte) : Option TravelParams
opaque zoneFields (payload : List Byte) : Option ZoneEntry
opaque budgetFields (payload : List Byte) : Option BudgetEntry
opaque thresholdFields (payload : List Byte) : Option (Vector Nat 7)
opaque floorDelayFields (payload : List Byte) : Option (Nat × Nat)
opaque levelFields (payload : List Byte) : Option LevelEntry
opaque profileFields (payload : List Byte) : Option ProfileEntry
opaque protectionFields (payload : List Byte) : Option ProtectionWrite
opaque feedFields (payload : List Byte) : Option FeedEntry
opaque targetFields (payload : List Byte) : Option TargetRow
opaque mapFields (payload : List Byte) : Option MapEntry
opaque archiveFields (payload : List Byte) : Option ArchiveWrite
opaque severityField (payload : List Byte) : Option (Option Severity)

end Sys2Proof.Config
end

