-- ==== Sys2Proof/Machine/State.lean ====
section
/-! DEFINITION. The state of the hub, block by block as chapters 1 to 12 give it, what a reply
carries, the reasons a step can stop, and the state after a power-on reset. -/

namespace Sys2Proof.Machine

/-! ### Names of states and kinds -/

/-- The hub mode (12.3). -/
inductive HubMode | config | run | faultstop
  deriving DecidableEq, Repr

/-- A port's state (1.3). -/
inductive PortState | up | suspect | retrain | down
  deriving DecidableEq, Repr

/-- The quality of an input slot (2.1). -/
inductive Quality | empty | good | clamped | stale
  deriving DecidableEq, Repr

/-- The motion state (3.3). -/
inductive Motion | forward | reverse | stopped | parked
  deriving DecidableEq, Repr

/-- The health of a sensor line (4.8). -/
inductive LineState | unknown | good | suspect | failed
  deriving DecidableEq, Repr

/-- The cause of a FAILED result (4.1). -/
inductive LineCause | opened | short | jump
  deriving DecidableEq, Repr

/-- The last result of a line as READ_LINE gives it (R61); "none" is an absent value. -/
inductive LastResult | accepted | acceptedClamped | failed (cause : LineCause) | noReference
  deriving DecidableEq, Repr

/-- Whether a count is a measurement's first or its retry (4.1). -/
inductive CountPhase | first | retry
  deriving DecidableEq, Repr

/-- What one count of a sensor line reads: a temperature with its CLAMPED mark, or a cause. -/
inductive Reading | temp (value : Int) (clamped : Bool) | fails (cause : LineCause)
  deriving DecidableEq, Repr

/-- A zone's temperature source (5.3). -/
inductive Source | primary | spare | buddy | none
  deriving DecidableEq, Repr

/-- A zone's state (5.4). -/
inductive ZoneState | disabled | idle | fault | standby | warmup | regulate
  deriving DecidableEq, Repr

/-- The sag monitor's state (6.2). -/
inductive SagState | normal | dipping | sag | recovering
  deriving DecidableEq, Repr

/-- A levelling side's state (7.2). -/
inductive LevelState | standby | acquire | active | hold | frozen
  deriving DecidableEq, Repr

/-- The state a FROZEN side remembers (7.2). -/
inductive Remembered | acquire | active | hold
  deriving DecidableEq, Repr

/-- A feed side's state (8.3). -/
inductive FeedState | standby | running | starved | paused | sensorless
  deriving DecidableEq, Repr

/-- A gap's reason (10.6). -/
inductive GapReason | queueFull | skipped
  deriving DecidableEq, Repr

/-- The restart cause (R149). -/
inductive RestartCause | powerOn | controlReset | resumed | restarted
  deriving DecidableEq, Repr

/-- The archive's state (11.5). -/
inductive ArchiveState | absent | scanning | normal | formatting | full | failed
  deriving DecidableEq, Repr

/-- The thirteen flags of a ROW record (11.2). -/
inductive RowFlag
  | stopped | parked | reversed | heatShed | sag | levelHoldL | levelHoldR | feedStarvedL
  | feedStarvedR | faultstop | segregated | noScan | runsOverflow
  deriving DecidableEq, Repr

/-- The 25 condition kinds (12.4), in the order of their numbers. -/
inductive CondKind
  | linkARetrain | linkBRetrain | linkADown | linkBDown | forwardDrop | guardBlock | mgmtForeign
  | senseMalformed | slotStale | travelJump | lineFailed | refFail | zoneFault | zoneOvertemp
  | supplySag | heatShed | levelHold | targetLost | targetReject | feedStarved | scanIncomplete
  | recordGap | archiveFail | archiveFull | profileEnd
  deriving DecidableEq, Repr

/-- The reply codes (12.1); `part` is PARTIAL. -/
inductive ReplyCode
  | ok | clamped | busy | locked | held | wrongMode | badTable | badIndex | badValue | badOrder
  | badConfig | part | range
  deriving DecidableEq, Repr

/-! ### Records of the blocks that replies also carry -/

/-- A filter entry as held (1.6), with its hit count. -/
structure FilterEntry where
  valid : Bool
  cls : FrameClass
  src : Option Nat
  dst : Option Nat
  chanLow : Nat
  chanHigh : Nat
  action : FilterAction
  hits : Nat
  deriving DecidableEq, Repr

/-- A node table entry as held (1.5). -/
structure NodeEntry where
  side : NodeSide
  role : List Byte
  deriving DecidableEq, Repr

/-- An intake entry as held, with its applied count (2.2). -/
structure IntakeRec where
  entry : IntakeEntry
  applied : Nat
  deriving DecidableEq, Repr

/-- An input slot (2.1): value, quality, age in ms, staleness limit and last entry. -/
structure Slot where
  value : Int
  quality : Quality
  age : Nat
  limit : Nat
  lastEntry : Option Nat
  deriving DecidableEq, Repr

/-- The reference entry as held (4.2). -/
structure ReferenceEntry where
  mode : CountMode
  gate : Nat
  periods : Nat
  rRef : Nat
  refLo : Nat
  refHi : Nat
  deriving DecidableEq, Repr

/-- The state of a sensor line (4.8, R61). -/
structure LineVars where
  state : LineState
  faults : Nat
  recovery : Nat
  lastAccepted : Option Int
  lastResult : Option LastResult
  lastRaw : Option Nat
  lastResistance : Option Nat
  deriving DecidableEq, Repr

/-- The state of a zone (5.3, 5.4, R83).  The temperature carries its CLAMPED mark. -/
structure ZoneVars where
  state : ZoneState
  source : Source
  temp : Option (Int × Bool)
  age : Nat
  stale : Bool
  boost : Int
  demand : Nat
  overtemp : Bool
  alloc : Nat
  shed : Bool
  periodDuty : Nat
  lineOn : Bool
  deriving DecidableEq, Repr

/-- A levelling side's record (7.2, R121). -/
structure SideVars where
  mode : LevelMode
  state : LevelState
  remembered : Option Remembered
  counter : Nat
  lastValid : Option Int
  base : Option Int
  target : Option Int
  beyond : Bool
  lastSubmitted : Option Int
  deriving DecidableEq, Repr

/-- A feed side's record (8.3, R132). -/
structure FeedVars where
  mode : FeedMode
  state : FeedState
  held : Option Nat
  fresh : Bool
  conveyor : Nat
  auger : Nat
  lastConveyor : Option Int
  lastAuger : Option Int
  starve : Timer
  deriving DecidableEq, Repr

/-- An outstanding command (9.2): its value, sequence and try number. -/
structure Outstanding where
  value : Int
  seq : Nat
  tries : Nat
  deriving DecidableEq, Repr

/-- A target's command state (9.2). -/
structure TargetVars where
  seqCounter : Nat
  outstanding : Option Outstanding
  ackTimer : Timer
  pending : Option Int
  lost : Bool
  sent : Nat
  resends : Nat
  losses : Nat
  rejections : Nat
  deriving DecidableEq, Repr

/-- A condition entry (12.4). -/
structure CondEntry where
  count : Nat
  firstTime : Nat
  lastTime : Nat
  active : Bool
  armed : Bool
  alarm : Bool
  release : Bool
  severity : Severity
  deriving DecidableEq, Repr

/-- The protection entry (7.8). -/
structure Protection where
  anchor : Anchor
  span : Nat
  invert : Bool
  lock : LockMode
  deriving DecidableEq, Repr

/-- The archive entry as held in non-volatile storage (11.1). -/
structure ArchiveEntry where
  first : Nat
  count : Nat
  size : Nat
  policy : Policy
  streaming : Bool
  deriving DecidableEq, Repr

/-- The open gap (10.6). -/
structure Gap where
  first : Int
  last : Int
  rows : Nat
  reason : GapReason
  restart : Bool
  clock : Nat
  deriving DecidableEq, Repr

/-- The write position (11.3): at a slot of a range sector, waiting at the end of one sector to enter
the next (`target`), or not placed. -/
inductive WritePos
  | unplaced
  | at (sector slot : Nat)
  | waiting (target : Nat)
  deriving DecidableEq, Repr

/-- The erase-ahead state with the sector being erased and the suspend count (11.4). -/
inductive EraseAhead
  | idle
  | erasing (sector suspends : Nat)
  | suspended (sector suspends : Nat)
  deriving DecidableEq, Repr

/-! ### Replies -/

/-- What the port status gives for one port (1.8). -/
structure PortStatus where
  state : PortState
  window : Nat
  retrains : Nat
  received : Nat
  errors : Nat
  discards : Nat
  deriving DecidableEq, Repr

/-- Part 0 of STATUS (R175). -/
structure HubStatus where
  mode : HubMode
  clock : Nat
  alarm : Bool
  lastBusy : Nat
  master : Bool
  lock : LockMode
  jobKey : Bool
  deriving DecidableEq, Repr

/-- Part 2 of STATUS (3.5). -/
structure TravelStatus where
  station : Int
  highWater : Int
  motion : Motion
  heldLeft : Nat
  heldRight : Nat
  cLo : Nat
  cHi : Nat
  deriving DecidableEq, Repr

/-- Part 3 of STATUS (R98).  Each vote stands with its voting right. -/
structure PowerStatus where
  sag : SagState
  budget : Nat
  allocated : Nat
  demand : Nat
  heating : Nat × Bool
  feed : Nat × Bool
  travel : Nat × Bool
  resolved : Nat
  requested : Nat
  downDelay : Timer
  deriving DecidableEq, Repr

/-- What STATUS tells of the open row (R157). -/
structure RowStatus where
  start : Int
  span : Option (Nat × Nat)
  scanned : Bool
  flags : BitVec 16
  deriving DecidableEq, Repr

/-- The open gap as STATUS gives it (R157). -/
structure GapStatus where
  first : Int
  last : Int
  rows : Nat
  reason : GapReason
  restart : Bool
  deriving DecidableEq, Repr

/-- Part 4 of STATUS (R157). -/
structure MapStatus where
  scan : Option Nat
  present : List Bool
  lastApplied : Option Nat
  ignored : Nat
  taken : Nat
  notTaken : Nat
  row : Option RowStatus
  queued : Nat
  gap : Option GapStatus
  cause : RestartCause
  deriving DecidableEq, Repr

/-- Part 5 of STATUS (R172). -/
structure ArchiveStatus where
  state : ArchiveState
  rangeFirst : Nat
  rangeCount : Nat
  rangeSize : Nat
  stored : ArchiveEntry
  write : WritePos
  nextNumber : Nat
  oldest : Nat
  newest : Nat
  buffered : Nat
  flush : Timer
  erase : EraseAhead
  held : Option Nat
  failures : Nat
  skipped : Nat
  lost : Nat
  dirty : Nat
  deriving DecidableEq, Repr

/-- An entry of a table as READ_ENTRY returns it (R176). -/
inductive EntryValue
  | node (e : NodeEntry)
  | nodePair (own console : Nat)
  | filter (e : FilterEntry)
  | intake (e : IntakeRec)
  | reference (e : ReferenceEntry)
  | sensor (e : SensorEntry)
  | sweep (l : List Nat)
  | travel (e : TravelParams)
  | zone (e : ZoneEntry)
  | budget (e : BudgetEntry)
  | thresholds (ts : Vector Nat 7)
  | floorDelay (floor delay : Nat)
  | level (e : LevelEntry)
  | profile (e : ProfileEntry)
  | protection (e : Protection)
  | feed (e : FeedEntry)
  | target (e : TargetRow)
  | map (e : MapEntry)
  | archive (e : ArchiveEntry)
  | condition (e : CondEntry)
  deriving DecidableEq, Repr

/-- The reply fields that follow the reply code, by kind of answer. -/
inductive ReplyFields
  | none
  | hub (s : HubStatus)
  | ports (a b : PortStatus)
  | travel (s : TravelStatus)
  | power (s : PowerStatus)
  | map (s : MapStatus)
  | archive (s : ArchiveStatus)
  | active (flags : List Bool)
  | entry (e : EntryValue)
  | slot (s : Slot)
  | zone (z : ZoneVars) (names : Option Nat)
  | side (v : SideVars)
  | feed (v : FeedVars) (halfWidth : Nat)
  | line (v : LineVars) (listed : Bool)
  | reference (last held : Option Nat) (age : Nat) (refFail : Bool) (counting : Option (Nat × CountPhase))
  | target (row : TargetRow) (v : TargetVars) (waiting : Bool)
  | badConfig (check index : Nat)
  | range (oldest newest : Nat)
  | next (number : Nat)
  | record (wire : List Byte)
  deriving DecidableEq, Repr

/-- The content of a frame's payload.  A frame from the link, a command and a record notice have
bytes; the spec gives no byte layout for replies and condition notices (5.5), which stand here by
their fields (DESIGN CHOICE, log entry 7). -/
inductive Body
  | bytes (l : List Byte)
  | reply (code : ReplyCode) (fields : ReplyFields)
  | condition (count firstTime lastTime : Nat) (active : Bool) (severity : Severity)
  deriving DecidableEq, Repr

/-- A frame (1.2).  `spare` is bits 7 and 6 of byte 1.  The CRC of a good frame follows from the
rest. -/
structure Frame where
  cls : FrameClass
  urgent : Bool
  seq : Nat
  spare : Nat
  dst : Nat
  src : Nat
  chan : Nat
  body : Body
  deriving DecidableEq, Repr

/-- A frame in an output queue or being sent: own or pass-through, and the mark of the guard that
passed it (R12). -/
structure OutFrame where
  frame : Frame
  own : Bool
  mark : Option GuardKind
  deriving DecidableEq, Repr

/-! ### The blocks -/

/-- One port of the bridge: its state machine (1.3), its counts (1.8), the frame being sent, the sync
frames that wait for the line, and the two parts of its output queue (1.7). -/
structure PortRec where
  state : PortState
  window : Nat
  windowTimer : Timer
  retrains : Nat
  attempt : Timer
  sync : Timer
  retry : Timer
  settle : Timer
  received : Nat
  errors : Nat
  discards : Nat
  sending : Option OutFrame
  syncs : List OutFrame
  urgentQ : List OutFrame
  normalQ : List OutFrame
  deriving DecidableEq, Repr

/-- The Link Bridge (chapter 1). -/
structure Bridge where
  portA : PortRec
  portB : PortRec
  nodes : Vector NodeEntry 64
  ownNode : Nat
  consoleNode : Nat
  filters : Vector FilterEntry 24
  deriving DecidableEq, Repr

/-- The Intake Unit (chapter 2). -/
structure Intake where
  entries : Vector IntakeRec 24
  slots : Vector Slot 9
  deriving DecidableEq, Repr

/-- The Travel and Geometry Unit (chapter 3). -/
structure Travel where
  params : TravelParams
  station : Int
  highWater : Int
  baseline : Option Int
  motion : Motion
  park : Timer
  heldLeft : Nat
  heldRight : Nat
  leftHalf : Nat
  rightHalf : Nat
  cLo : Nat
  cHi : Nat
  deriving DecidableEq, Repr

/-- A sensor line: its entry and its state (chapter 4). -/
structure Line where
  entry : SensorEntry
  vars : LineVars
  deriving DecidableEq, Repr

/-- The running count: the line counted (0 is the reference), its place in the sweep list, the
phase, the first count's reading where a retry runs, and the 40 ms limit of a PERIOD mode count. -/
structure Counting where
  line : Nat
  place : Nat
  phase : CountPhase
  firstReading : Option Reading
  limit : Timer
  deriving DecidableEq, Repr

/-- The Resistance Measurement Unit (chapter 4).  `lines` holds lines 1 to 19 at places 0 to 18, `gate`
is what is left of the running count's gate in WINDOW mode (R46), and `counts` is how many counts have
begun, which tells one free count from another (log entry 57). -/
structure Rmu where
  ref : ReferenceEntry
  lines : Vector Line 19
  sweepList : List Nat
  counting : Option Counting
  gate : Timer
  counts : Nat
  sweepRef : Option Nat
  lastRef : Option Nat
  heldRef : Option Nat
  refAge : Nat
  deriving DecidableEq, Repr

/-- A zone: its entry and its state (chapter 5). -/
structure Zone where
  entry : ZoneEntry
  vars : ZoneVars
  deriving DecidableEq, Repr

/-- The Zone Heating Controller (chapter 5).  `elapsed` is the time since the heater period's start. -/
structure Heat where
  zones : Vector Zone 16
  master : Bool
  rights : Bool
  elapsed : Nat
  deriving DecidableEq, Repr

/-- An allocation record (6.3). -/
structure AllocRec where
  demand : Nat
  state : ZoneState
  rating : Nat
  cls : Nat
  power : Nat
  granted : Nat
  alloc : Nat
  shed : Bool
  deriving DecidableEq, Repr

/-- The Power Budget Unit (chapter 6).  `below` is the comparator's output. -/
structure Power where
  entry : BudgetEntry
  sag : SagState
  debounce : Timer
  recover : Timer
  below : Bool
  records : Vector AllocRec 16
  deriving DecidableEq, Repr

/-- The Engine Speed Voter (chapter 6). -/
structure Voter where
  heating : Vector Nat 7
  feed : Vector Nat 7
  travel : Vector Nat 7
  floor : Nat
  downDelay : Nat
  heatInput : Nat
  sagStarted : Bool
  heatRight : Bool
  feedInput : Nat
  feedRight : Bool
  travelInput : Nat
  travelRight : Bool
  requested : Nat
  timer : Timer
  deriving DecidableEq, Repr

/-- A levelling side: its parameter entry and its record (chapter 7). -/
structure LevelSide where
  entry : LevelEntry
  vars : SideVars
  deriving DecidableEq, Repr

/-- The Levelling Controller (chapter 7). -/
structure Level where
  left : LevelSide
  right : LevelSide
  motion : Motion
  profile : Vector ProfileEntry 64
  protection : Protection
  deriving DecidableEq, Repr

/-- A feed side: its entry and its record (chapter 8). -/
structure FeedSide where
  entry : FeedEntry
  vars : FeedVars
  deriving DecidableEq, Repr

/-- The Feed Controller (chapter 8). -/
structure Feed where
  left : FeedSide
  right : FeedSide
  motion : Motion
  hubMode : HubMode
  leftHalf : Nat
  rightHalf : Nat
  baseHalf : Nat
  deriving DecidableEq, Repr

/-- A target: its row, its command state, and its command's frame while it waits for admission
(phase WAITING). -/
structure Target where
  row : TargetRow
  vars : TargetVars
  waiting : Option (Port × Frame)
  deriving DecidableEq, Repr

/-- The Command Dispatcher (chapter 9). -/
structure Dispatcher where
  targets : Vector Target 7
  hubMode : HubMode
  deriving DecidableEq, Repr

/-- A cell of the open row (10.4). -/
structure MatCell where
  count : Nat
  sum : Nat
  deriving DecidableEq, Repr

/-- The open row (10.4). -/
structure OpenRow where
  start : Int
  pitch : Nat
  cells : Vector MatCell 64
  span : Option (Nat × Nat)
  scanned : Bool
  flags : BitVec 16
  deriving DecidableEq, Repr

/-- The fields of a ROW record (R151). -/
structure RowRecord where
  clock : Nat
  station : Int
  pitch : Nat
  colLo : Nat
  colHi : Nat
  valid : Nat
  cold : Nat
  min : Nat
  max : Nat
  mean : Nat
  flags : BitVec 16
  runCount : Nat
  runs : List (Nat × Nat)
  deriving DecidableEq, Repr

/-- A record of the mat map (10.6). -/
inductive Record
  | row (r : RowRecord)
  | gap (g : Gap)
  | restart (clock : Nat) (station : Int) (cause : RestartCause)
  | mark (clock : Nat) (station : Int) (code : Nat)
  deriving DecidableEq, Repr

/-- The Mat Map Unit (chapter 10).  `standing` holds the six row conditions at the bits of their row
flags (R148): set is "entered". -/
structure MatMap where
  entry : MapEntry
  scan : Option Nat
  segs : Vector (Option (List Byte)) 4
  window : Timer
  lastApplied : Option Nat
  ignored : Nat
  taken : Nat
  notTaken : Nat
  row : Option OpenRow
  queue : List Record
  gap : Option Gap
  cause : RestartCause
  station : Int
  highWater : Int
  motion : Motion
  cLo : Nat
  cHi : Nat
  hubMode : HubMode
  standing : BitVec 16
  deriving DecidableEq, Repr

/-- A range sector: its directory entry (`none` is EMPTY) and its standing as ready (11.4, 11.6). -/
structure Sector where
  low : Option Nat
  ready : Bool
  deriving DecidableEq, Repr

/-- How far a format has come (R170): none, waiting for an erase left in the flash, or erasing the
range in order. -/
inductive FormatPhase | none | waiting | erasing
  deriving DecidableEq, Repr

/-- The Archive Controller (chapter 11).  `first`, `count` and `size` are the range in force with its flash
size (R160), `stored` the archive entry.  A program runs while `program` is running.  `eraseDue` is the
sector whose erase has been decided and not yet issued.  `left` is the flash sector of an erase that FAILED
left running or suspended in the flash. -/
structure Archive where
  stored : ArchiveEntry
  first : Nat
  count : Nat
  size : Nat
  state : ArchiveState
  sectors : List Sector
  oldest : Option Nat
  newest : Option Nat
  nextNumber : Nat
  write : WritePos
  buffer : List (Nat × Record)
  flush : Timer
  programDue : Bool
  program : Timer
  eraseDue : Option Nat
  erase : EraseAhead
  eraseTimer : Timer
  held : Option Nat
  failures : Nat
  skipped : Nat
  lost : Nat
  dirty : Nat
  format : FormatPhase
  left : Option Nat
  deriving DecidableEq, Repr

/-- The external serial flash: the bytes that differ from 255, by rising address, and the 64-byte
places (by number, each with a mark) whose bytes an operation left open (R163, R165). -/
structure Flash where
  cells : List Host.Cell
  unsettled : List (Nat × Nat)
  deriving DecidableEq, Repr

/-- A served fetch (R169): the next and last number, whether the count was clamped, whether a read
has begun, and whether the final reply has been offered. -/
structure FetchState where
  next : Nat
  last : Nat
  clamped : Bool
  begun : Bool
  final : Bool
  deriving DecidableEq, Repr

/-- What a request in service still has to do after its reply is admitted. -/
inductive RequestKind
  | plain
  | fetch (f : FetchState)
  | reset (due : Bool)
  deriving DecidableEq, Repr

/-- The request in service (chapter 12). -/
structure Request where
  code : Nat
  seq : Nat
  src : Nat
  kind : RequestKind
  deriving DecidableEq, Repr

/-- The Management Engine (chapter 12).  `stopAsked` is the FAULTSTOP request of R179 on its way
within one command; no command leaves it set. -/
structure Mgmt where
  mode : HubMode
  request : Option Request
  jobClock : Nat
  second : Timer
  lastBusy : Nat
  waitingReply : Option (Port × Frame)
  stopAsked : Bool
  deriving DecidableEq, Repr

/-- The Condition Log (chapter 12).  `waiting` holds the waiting notices, oldest first. -/
structure CondLog where
  entries : Vector CondEntry 25
  waiting : List (CondKind × Port × Frame)
  noticeCount : Nat
  deriving DecidableEq, Repr

/-- The whole machine.  `jobKey` is the job-key line.  `samples` and `marks` count the free values
taken (the model's own fields), and `pending` is the queue of commands, first in first out. -/
structure State where
  bridge : Bridge
  intake : Intake
  travel : Travel
  rmu : Rmu
  heat : Heat
  power : Power
  voter : Voter
  level : Level
  feed : Feed
  disp : Dispatcher
  map : MatMap
  archive : Archive
  flash : Flash
  mgmt : Mgmt
  log : CondLog
  jobKey : Bool
  samples : Nat
  marks : Nat
  pending : List Instr
  deriving DecidableEq, Repr

/-- Faults: the spec names no circumstance that stops the hub, so there is none (safe: nothing is
stopped that the hub would do). -/
inductive Fault
  deriving DecidableEq, Repr

/-- Refusals. -/
inductive Refusal
  /-- Raised by `exec` for a command that has no meaning in the model; no arm raises it (safe). -/
  | notModelled (mnemonic : String)
  deriving DecidableEq, Repr

/-! ### The state after a power-on reset -/

/-- A port after a power-on reset: in RETRAIN, its first attempt begun (R18, R3, R4). -/
def PortRec.reset : PortRec where
  state := .retrain
  window := 0
  windowTimer := none
  retrains := 0
  attempt := some Config.attemptTime
  sync := some Config.syncTime
  retry := none
  settle := none
  received := 0
  errors := 0
  discards := 0
  sending := none
  syncs := []
  urgentQ := []
  normalQ := []

/-- The bridge after a power-on reset (R18).  The fields of a filter entry that is not valid are
DESIGN CHOICE, log entry 18. -/
def Bridge.reset : Bridge where
  portA := .reset
  portB := .reset
  nodes := .replicate 64 ⟨.any, []⟩
  ownNode := 2
  consoleNode := 1
  filters := .replicate 24 ⟨false, .sense, none, none, 0, 0, .pass, 0⟩

/-- An EMPTY slot (R28). -/
def Slot.reset : Slot := ⟨0, .empty, 0, 1000, none⟩

/-- The Intake Unit after a power-on reset (R28). -/
def Intake.reset : Intake where
  entries := .replicate 24 ⟨⟨false, 0, 0, 0, 1, false, 1, 1, 0, 0, 1000⟩, 0⟩
  slots := .replicate 9 .reset

/-- The Travel and Geometry Unit after a power-on reset (R40). -/
def Travel.reset : Travel where
  params := ⟨10, 60, 3000⟩
  station := 0
  highWater := 0
  baseline := none
  motion := .stopped
  park := some 60000
  heldLeft := 0
  heldRight := 0
  leftHalf := 1500
  rightHalf := 1500
  cLo := 24
  cHi := 39

/-- A line's state after a power-on reset (R62). -/
def LineVars.reset : LineVars := ⟨.unknown, 0, 0, none, none, none, none⟩

/-- The Resistance Measurement Unit after a power-on reset (R62). -/
def Rmu.reset : Rmu where
  ref := ⟨.window, 4, 8192, 15000, 1, 65534⟩
  lines := .replicate 19 ⟨⟨10000, 385, 8000, 30000, 50⟩, .reset⟩
  sweepList := []
  counting := none
  gate := none
  counts := 0
  sweepRef := none
  lastRef := none
  heldRef := none
  refAge := 0

/-- The default entry of zone i (5.1). -/
def zoneEntryDefault (i : Nat) : ZoneEntry where
  enable := false
  primary := i + 1
  spare := none
  buddy := none
  buddyOffset := 0
  setpoint := 1400
  standby := 1000
  warmBand := 100
  gain := 20
  hold := 60
  ceiling := 2000
  boostMax := 100
  boostStep := 10
  trigger := 200
  rating := 2000
  cls := 0
  first := 4 * i
  last := 4 * i + 3
  staleTime := 3000

/-- A zone's state after either reset (R84, R85). -/
def ZoneVars.reset : ZoneVars :=
  ⟨.disabled, .primary, none, 0, false, 0, 0, false, 0, false, 0, false⟩

/-- The zone table after a power-on reset, zone by zone. -/
def Heat.resetZones : Vector Zone 16 :=
  #v[⟨zoneEntryDefault 0, .reset⟩, ⟨zoneEntryDefault 1, .reset⟩, ⟨zoneEntryDefault 2, .reset⟩,
    ⟨zoneEntryDefault 3, .reset⟩, ⟨zoneEntryDefault 4, .reset⟩, ⟨zoneEntryDefault 5, .reset⟩,
    ⟨zoneEntryDefault 6, .reset⟩, ⟨zoneEntryDefault 7, .reset⟩, ⟨zoneEntryDefault 8, .reset⟩,
    ⟨zoneEntryDefault 9, .reset⟩, ⟨zoneEntryDefault 10, .reset⟩, ⟨zoneEntryDefault 11, .reset⟩,
    ⟨zoneEntryDefault 12, .reset⟩, ⟨zoneEntryDefault 13, .reset⟩, ⟨zoneEntryDefault 14, .reset⟩,
    ⟨zoneEntryDefault 15, .reset⟩]

/-- The Zone Heating Controller after a power-on reset (R84). -/
def Heat.reset : Heat := ⟨Heat.resetZones, false, false, 0⟩

/-- An allocation record after either reset (R99, R100); its rating and class are the zone table's
defaults until the first demand report (DESIGN CHOICE, log entry 37). -/
def AllocRec.reset : AllocRec := ⟨0, .disabled, 2000, 0, 0, 0, 0, false⟩

/-- The Power Budget Unit after a power-on reset (R99). -/
def Power.reset : Power where
  entry := ⟨20000, 60, 0, 200, 5, 2⟩
  sag := .normal
  debounce := none
  recover := none
  below := false
  records := .replicate 16 .reset

/-- The Engine Speed Voter after a power-on reset (R99, 6.4). -/
def Voter.reset : Voter where
  heating := #v[2000, 4000, 6000, 8000, 10000, 14000, 18000]
  feed := #v[100, 250, 400, 550, 700, 850, 950]
  travel := #v[50, 100, 200, 400, 600, 800, 1000]
  floor := 2
  downDelay := 5
  heatInput := 0
  sagStarted := false
  heatRight := false
  feedInput := 0
  feedRight := false
  travelInput := 0
  travelRight := false
  requested := 2
  timer := none

/-- A levelling side's record after either reset (R122). -/
def SideVars.reset : SideVars := ⟨.manual, .standby, none, 0, none, none, none, false, none⟩

/-- A levelling side after a power-on reset (R122, 7.1). -/
def LevelSide.reset : LevelSide := ⟨⟨20, 10, 4, 100, 10, 25, 80, 600⟩, .reset⟩

/-- The Levelling Controller after a power-on reset (R122). -/
def Level.reset : Level where
  left := .reset
  right := .reset
  motion := .stopped
  profile := .replicate 64 ⟨false, 0, 0, 0, 0⟩
  protection := ⟨.first, 7, false, .opened⟩

/-- A feed side's record after either reset (R133). -/
def FeedVars.reset : FeedVars := ⟨.manual, .standby, none, false, 0, 0, none, none, none⟩

/-- A feed side after a power-on reset (R133, 8.1). -/
def FeedSide.reset : FeedSide where
  entry := ⟨#v[(50, 1000), (100, 900), (150, 800), (200, 600), (250, 400), (300, 200), (350, 0),
    (400, 0)], 60, 20⟩
  vars := .reset

/-- The Feed Controller after a power-on reset (R133). -/
def Feed.reset : Feed := ⟨.reset, .reset, .stopped, .config, 1500, 1500, 1500⟩

/-- A target after a power-on reset (R143). -/
def Target.reset : Target :=
  ⟨⟨false, 0, 0, 0, 100⟩, ⟨0, none, none, none, false, 0, 0, 0, 0⟩, none⟩

/-- The Command Dispatcher after a power-on reset (R143). -/
def Dispatcher.reset : Dispatcher := ⟨.replicate 7 .reset, .config⟩

/-- The Mat Map Unit after a power-on reset (R158). -/
def MatMap.reset : MatMap where
  entry := ⟨none, 50, 120, 25⟩
  scan := none
  segs := .replicate 4 none
  window := none
  lastApplied := none
  ignored := 0
  taken := 0
  notTaken := 0
  row := none
  queue := []
  gap := none
  cause := .powerOn
  station := 0
  highWater := 0
  motion := .stopped
  cLo := 24
  cHi := 39
  hubMode := .config
  standing := 0

/-- The factory value of the archive entry (11.1). -/
def ArchiveEntry.factory : ArchiveEntry := ⟨0, 0, 512, .wrap, false⟩

/-- The Archive Controller after a power-on reset, before a scan has placed anything (R173), with the
stored entry, state and sector list given.  The next record number 1 and the write position not placed
are DESIGN CHOICE, log entry 66. -/
def Archive.unscanned (stored : ArchiveEntry) (state : ArchiveState) (sectors : List Sector) :
    Archive where
  stored := stored
  first := stored.first
  count := stored.count
  size := stored.size
  state := state
  sectors := sectors
  oldest := none
  newest := none
  nextNumber := 1
  write := .unplaced
  buffer := []
  flush := none
  programDue := false
  program := none
  eraseDue := none
  erase := .idle
  eraseTimer := none
  held := none
  failures := 0
  skipped := 0
  lost := 0
  dirty := 0
  format := .none
  left := none

/-- The Management Engine after a power-on reset (R185). -/
def Mgmt.reset : Mgmt := ⟨.config, none, 0, some 1000, 0, none, false⟩

/-- A condition entry after a power-on reset, with its kind's default severity (R185). -/
def CondEntry.reset (sev : Severity) : CondEntry := ⟨0, 0, 0, false, true, false, false, sev⟩

/-- The Condition Log after a power-on reset, with the default severities of 12.4 (R185). -/
def CondLog.reset : CondLog where
  entries := #v[.reset .note, .reset .note, .reset .alert, .reset .alert, .reset .ignore,
    .reset .note, .reset .note, .reset .ignore, .reset .alert, .reset .alert, .reset .alert,
    .reset .alert, .reset .alert, .reset .stop, .reset .note, .reset .ignore, .reset .alert,
    .reset .alert, .reset .note, .reset .note, .reset .ignore, .reset .alert, .reset .alert,
    .reset .alert, .reset .note]
  waiting := []
  noticeCount := 0

/-- The machine right after the first power-on reset: every block as its chapter says, the archive
entry at its factory value (so ABSENT), a blank flash and the job-key line off (DESIGN CHOICE, log
entries 4, 39 and 40). -/
def State.reset : State where
  bridge := .reset
  intake := .reset
  travel := .reset
  rmu := .reset
  heat := .reset
  power := .reset
  voter := .reset
  level := .reset
  feed := .reset
  disp := .reset
  map := .reset
  archive := .unscanned .factory .absent []
  flash := ⟨[], []⟩
  mgmt := .reset
  log := .reset
  jobKey := false
  samples := 0
  marks := 0
  pending := []

end Sys2Proof.Machine
end

