-- ==== Sys2Proof/Machine/Ops.lean ====
section
/-! DEFINITION. Arithmetic of 5.2 and 5.3, timers, table updates, the access to a port, a side and a
numbered line, and the numbers that the manual gives classes, kinds, flags and codes. -/

namespace Sys2Proof.Machine

/-! ### Arithmetic (5.2, 5.3) -/

/-- A saturating 16-bit count rises by one. -/
def satInc (n : Nat) : Nat := min (n + 1) 65535

/-- A saturating 16-bit count rises by `k`. -/
def satAdd (n k : Nat) : Nat := min (n + k) 65535

/-- A whole number clamped to a range. -/
def clampInt (lo hi x : Int) : Int := max lo (min hi x)

/-- A count clamped to a range. -/
def clampNat (lo hi x : Nat) : Nat := max lo (min hi x)

/-- A quotient rounded to the nearest whole number, a half away from zero (5.2).  The divisor is
above 0. -/
def roundDiv (a b : Int) : Int := a.sign * ((2 * a.natAbs + b.natAbs) / (2 * b.natAbs) : Nat)

/-- The smallest whole number not below `a / b` (5.2). -/
def ceilDiv (a b : Nat) : Nat := (a + b - 1) / b

/-- The signed 32-bit number congruent to `x` modulo 2^32. -/
def wrap32 (x : Int) : Int := Int.bmod x 4294967296

/-- The least signed 32-bit number. -/
def int32Min : Int := -2147483648
/-- The greatest signed 32-bit number. -/
def int32Max : Int := 2147483647

/-! ### Tables -/

/-- The table with its entry `i` changed by `f`. -/
def upd {α : Type} {n : Nat} (v : Vector α n) (i : Fin n) (f : α → α) : Vector α n :=
  v.set i (f v[i])

/-- The table whose entry `i` is `f i`. -/
def tab {α : Type} {n : Nat} (f : Fin n → α) : Vector α n := ⟨⟨List.ofFn f⟩, by simp⟩

/-- The index of a table of `n + 1` entries that a number in range names. -/
def ix (n : Nat) (k : Nat) : Fin (n + 1) := Fin.ofNat (n + 1) k

/-! ### Timers -/

/-- One millisecond passes for a timer; it stands at 0 until its expiry is taken. -/
def tickTimer (t : Timer) : Timer := t.map (· - 1)

/-- Whether a timer has run out and its expiry has not been taken. -/
def timerDue (t : Timer) : Bool := t == some 0

/-! ### Ports and sides -/

/-- The port opposite a port. -/
def otherPort : Port → Port
  | .A => .B
  | .B => .A

/-- The side of the node table that a port faces. -/
def portSide : Port → NodeSide
  | .A => .A
  | .B => .B

/-- A port of the bridge. -/
def getPort (b : Bridge) : Port → PortRec
  | .A => b.portA
  | .B => b.portB

/-- The bridge with one port changed. -/
def modPort (b : Bridge) (p : Port) (f : PortRec → PortRec) : Bridge :=
  match p with
  | .A => { b with portA := f b.portA }
  | .B => { b with portB := f b.portB }

/-- A levelling side. -/
def getLevel (l : Level) : Side → LevelSide
  | .left => l.left
  | .right => l.right

/-- The Levelling Controller with one side's record changed. -/
def modLevel (l : Level) (d : Side) (f : SideVars → SideVars) : Level :=
  match d with
  | .left => { l with left := { l.left with vars := f l.left.vars } }
  | .right => { l with right := { l.right with vars := f l.right.vars } }

/-- A feed side. -/
def getFeed (x : Feed) : Side → FeedSide
  | .left => x.left
  | .right => x.right

/-- The Feed Controller with one side's record changed. -/
def modFeed (x : Feed) (d : Side) (f : FeedVars → FeedVars) : Feed :=
  match d with
  | .left => { x with left := { x.left with vars := f x.left.vars } }
  | .right => { x with right := { x.right with vars := f x.right.vars } }

/-- The other side. -/
def otherSide : Side → Side
  | .left => .right
  | .right => .left

/-! ### Rows of the target table (9.1) -/

/-- The valve target of a side. -/
def valveOf : Side → Fin 7
  | .left => 0
  | .right => 1

/-- The conveyor target of a side. -/
def conveyorOf : Side → Fin 7
  | .left => 2
  | .right => 3

/-- The auger target of a side. -/
def augerOf : Side → Fin 7
  | .left => 4
  | .right => 5

/-- The ENGINE target. -/
def engineTarget : Fin 7 := 6

/-! ### Numbers of names -/

/-- The value of a frame class (1.2). -/
def classNum : FrameClass → Nat
  | .sense => 0
  | .command => 1
  | .ack => 2
  | .mgmt => 3
  | .reply => 4
  | .notice => 5
  | .scan => 6
  | .linkctl => 7

/-- The frame class of a three-bit value (1.2). -/
def classOf : Nat → FrameClass
  | 0 => .sense
  | 1 => .command
  | 2 => .ack
  | 3 => .mgmt
  | 4 => .reply
  | 5 => .notice
  | 6 => .scan
  | _ => .linkctl

/-- The number of a condition kind (12.4). -/
def condNum : CondKind → Fin 25
  | .linkARetrain => 0
  | .linkBRetrain => 1
  | .linkADown => 2
  | .linkBDown => 3
  | .forwardDrop => 4
  | .guardBlock => 5
  | .mgmtForeign => 6
  | .senseMalformed => 7
  | .slotStale => 8
  | .travelJump => 9
  | .lineFailed => 10
  | .refFail => 11
  | .zoneFault => 12
  | .zoneOvertemp => 13
  | .supplySag => 14
  | .heatShed => 15
  | .levelHold => 16
  | .targetLost => 17
  | .targetReject => 18
  | .feedStarved => 19
  | .scanIncomplete => 20
  | .recordGap => 21
  | .archiveFail => 22
  | .archiveFull => 23
  | .profileEnd => 24

/-- The kinds in the order of their numbers. -/
def condKinds : List CondKind :=
  [.linkARetrain, .linkBRetrain, .linkADown, .linkBDown, .forwardDrop, .guardBlock, .mgmtForeign,
   .senseMalformed, .slotStale, .travelJump, .lineFailed, .refFail, .zoneFault, .zoneOvertemp,
   .supplySag, .heatShed, .levelHold, .targetLost, .targetReject, .feedStarved, .scanIncomplete,
   .recordGap, .archiveFail, .archiveFull, .profileEnd]

/-- Whether a kind is a level kind (12.4). -/
def isLevelKind : CondKind → Bool
  | .linkADown | .linkBDown | .slotStale | .lineFailed | .refFail | .zoneFault | .zoneOvertemp
  | .supplySag | .heatShed | .levelHold | .targetLost | .feedStarved | .archiveFail | .archiveFull
  | .profileEnd => true
  | .linkARetrain | .linkBRetrain | .forwardDrop | .guardBlock | .mgmtForeign | .senseMalformed
  | .travelJump | .targetReject | .scanIncomplete | .recordGap => false

/-- The bit of a row flag in a ROW record (11.2). -/
def flagBit : RowFlag → Nat
  | .stopped => 0
  | .parked => 1
  | .reversed => 2
  | .heatShed => 3
  | .sag => 4
  | .levelHoldL => 5
  | .levelHoldR => 6
  | .feedStarvedL => 7
  | .feedStarvedR => 8
  | .faultstop => 9
  | .segregated => 10
  | .noScan => 11
  | .runsOverflow => 12

/-- A flag word with one flag set. -/
def setFlag (w : BitVec 16) (f : RowFlag) : BitVec 16 := w ||| BitVec.twoPow 16 (flagBit f)

/-- A flag word with one flag clear. -/
def clearFlag (w : BitVec 16) (f : RowFlag) : BitVec 16 := w &&& ~~~BitVec.twoPow 16 (flagBit f)

/-- The value of a reply code (12.1). -/
def replyNum : ReplyCode → Nat
  | .ok => 0
  | .clamped => 1
  | .busy => 2
  | .locked => 3
  | .held => 4
  | .wrongMode => 5
  | .badTable => 6
  | .badIndex => 7
  | .badValue => 8
  | .badOrder => 9
  | .badConfig => 10
  | .part => 11
  | .range => 12

/-- A sensor line, 1 to 19, of the line table. -/
def lineIx (line : Nat) : Fin 19 := ix 18 (line - 1)

end Sys2Proof.Machine
end

