-- ==== Sys2Proof/Machine/Frames.lean ====
section
/-! DEFINITION. The frame format and its checks (1.1, 1.2), and the CRC that frames and record slots
share (R1, 11.2). -/

namespace Sys2Proof.Machine

/-! ### The CRC: generator x^16 + x^12 + x^5 + 1, start 65535, most significant bit first -/

/-- One bit of the division. -/
def crcBit (c : BitVec 16) : BitVec 16 := if c.msb then (c <<< 1) ^^^ 0x1021#16 else c <<< 1

/-- One byte taken in, most significant bit first. -/
def crcByte (c : BitVec 16) (b : Byte) : BitVec 16 :=
  Nat.repeat crcBit 8 (c ^^^ (b.setWidth 16 <<< 8))

/-- The CRC over a string of bytes (R1). -/
def crc16 (l : List Byte) : BitVec 16 := l.foldl crcByte 0xFFFF#16

/-- The low `n` bytes of a number, most significant byte first (5.5). -/
def bytesOf : Nat → Nat → List Byte
  | 0, _ => []
  | n + 1, x => bytesOf n (x / 256) ++ [BitVec.ofNat 8 x]

/-- The number that bytes hold, most significant byte first. -/
def numberOf (l : List Byte) : Nat := l.foldl (fun n b => n * 256 + b.toNat) 0

/-- A signed number as the unsigned number of `n` bytes that carries it. -/
def unsignedOf (n : Nat) (x : Int) : Nat := (x % (256 ^ n : Nat)).toNat

/-- The bytes of a CRC, high byte first. -/
def crcBytes (l : List Byte) : List Byte := bytesOf 2 (crc16 l).toNat

/-! ### The frame layout (1.2) -/

/-- Byte 0: class, urgent flag, sequence. -/
def headByte0 (f : Frame) : Byte :=
  BitVec.ofNat 8 (classNum f.cls * 32 + (if f.urgent then 16 else 0) + f.seq % 16)

/-- Byte 1: the two carried bits and the destination. -/
def headByte1 (f : Frame) : Byte := BitVec.ofNat 8 (f.spare % 4 * 64 + f.dst % 64)

/-- The bytes of a frame on the link, for a payload whose bytes the spec lays out. -/
def frameBytes (f : Frame) : Option (List Byte) :=
  match f.body with
  | .bytes l =>
    let covered := [headByte0 f, headByte1 f, BitVec.ofNat 8 f.src, BitVec.ofNat 8 f.chan,
      BitVec.ofNat 8 l.length] ++ l
    some (covered ++ crcBytes covered)
  | _ => none

/-- The checks of R1 on what a port took in: `clean` says that every code group was a valid data
group and no start delimiter came before the end delimiter.  The frame, or none for a CRC failure
or a length error. -/
def checkFrame (clean : Bool) (bytes : List Byte) : Option Frame :=
  match bytes with
  | b0 :: b1 :: b2 :: b3 :: b4 :: rest =>
    if !clean || bytes.length < 7 || 40 < b4.toNat || bytes.length != 7 + b4.toNat then none
    else if crcBytes (bytes.take (5 + b4.toNat)) != bytes.drop (5 + b4.toNat) then none
    else some
      { cls := classOf (b0.toNat / 32)
        urgent := b0.toNat / 16 % 2 == 1
        seq := b0.toNat % 16
        spare := b1.toNat / 64
        dst := b1.toNat % 64
        src := b2.toNat
        chan := b3.toNat
        body := .bytes (rest.take b4.toNat) }
  | _ => none

/-- The payload bytes of a frame from the link. -/
def payloadOf (f : Frame) : List Byte :=
  match f.body with
  | .bytes l => l
  | _ => []

/-- The LINKCTL sync frame that the hub builds (R6). -/
def syncFrame (own : Nat) : OutFrame :=
  ⟨⟨.linkctl, false, 0, 0, 63, own, 0, .bytes []⟩, true, none⟩

end Sys2Proof.Machine
end

