-- ==== Sys2Proof/Machine/Queue.lean ====
section
/-! DEFINITION. The output queues of the two ports and the offering of frames to them (R14 to R16),
and the entry of a port's counts (R17). -/

namespace Sys2Proof.Machine

/-- Frames in a port's output queue, both parts together. -/
def depth (p : PortRec) : Nat := p.urgentQ.length + p.normalQ.length

/-- Pass-through frames in a port's output queue. -/
def passCount (p : PortRec) : Nat :=
  p.urgentQ.countP (fun f => !f.own) + p.normalQ.countP (fun f => !f.own)

/-- Whether a port is in UP or SUSPECT, and so carries queued frames (1.3). -/
def carries (p : PortRec) : Bool :=
  match p.state with
  | .up | .suspect => true
  | .retrain | .down => false

/-- A port that is not sending begins its next frame: a sync frame that waits for the line, else, in
UP or SUSPECT, the oldest urgent frame, else the oldest normal one (R14). -/
def kick (p : PortRec) : PortRec :=
  match p.sending, p.syncs with
  | some _, _ => p
  | none, y :: ys => { p with sending := some y, syncs := ys }
  | none, [] =>
    if carries p then
      match p.urgentQ, p.normalQ with
      | f :: fs, _ => { p with sending := some f, urgentQ := fs }
      | [], f :: fs => { p with sending := some f, normalQ := fs }
      | [], [] => p
    else p

/-- Whether a port's queue admits a frame (R15). -/
def admits (p : PortRec) (f : OutFrame) : Bool :=
  depth p < Config.queuePlaces && (f.own || passCount p < Config.passPlaces)

/-- A frame joins its part of the queue; an idle port begins sending at once (R14). -/
def enqueueFrame (p : PortRec) (f : OutFrame) : PortRec :=
  kick (if f.frame.urgent then { p with urgentQ := p.urgentQ ++ [f] }
    else { p with normalQ := p.normalQ ++ [f] })

/-- A port's discard count rises by `k`. -/
def discard (k : Nat) (p : PortRec) : PortRec := { p with discards := satAdd p.discards k }

/-- A port sends a sync frame: it waits for the line only behind a frame being sent (R4, R5).  DESIGN
CHOICE, log entry 12. -/
def sendSync (own : Nat) (p : PortRec) : PortRec :=
  kick { p with syncs := p.syncs ++ [syncFrame own] }

/-- The port that an own frame leaves by (R16); a destination of side ANY uses Port A. -/
def portFor (b : Bridge) (dst : Nat) : Port :=
  match b.nodes[ix 63 dst].side with
  | .B => .B
  | .A | .any => .A

/-- What becomes of an offered own frame (R16). -/
inductive Offer | dropped | admitted | refused
  deriving DecidableEq, Repr

/-- An own frame is offered to the output queue of its port (R16).  That it takes a free place also while
others wait for that port is DESIGN CHOICE, log entry 80. -/
def offerOwn (b : Bridge) (f : Frame) : Bridge × Offer :=
  let p := portFor b f.dst
  let r := getPort b p
  if !carries r then (modPort b p (discard 1), .dropped)
  else if admits r ⟨f, true, none⟩ then (modPort b p (enqueueFrame · ⟨f, true, none⟩), .admitted)
  else (b, .refused)

end Sys2Proof.Machine
end

