-- ==== Sys2Proof/Machine/Flags.lean ====
section
/-! DEFINITION. The Condition Log's occurrences, ends, notices and alarm line (R180 to R183), and
the standings and flags that the open row keeps of six conditions (R148). -/

namespace Sys2Proof.Machine

/-- A condition kind's entry. -/
def condEntry (l : CondLog) (k : CondKind) : CondEntry := l.entries[condNum k]

/-- Whether a kind is active. -/
def isActive (s : State) (k : CondKind) : Bool := (condEntry s.log k).active

/-- The alarm line: asserted while an entry has its alarm flag set (R182). -/
def alarmLine (s : State) : Bool := s.log.entries.toList.any (·.alarm)

/-- Whether a severity sets the alarm flag and makes the notice urgent (R180). -/
def alerting : Severity → Bool
  | .alert | .stop => true
  | .ignore | .note => false

/-- The entry after an occurrence of its kind (R180). -/
def occurEntry (k : CondKind) (clock : Nat) (e : CondEntry) : CondEntry :=
  { e with
    count := min (e.count + 1) 255
    firstTime := if e.count = 0 then clock else e.firstTime
    lastTime := clock
    active := e.active || isLevelKind k
    release := e.release && !isLevelKind k
    armed := e.armed && e.severity == .ignore
    alarm := e.alarm || alerting e.severity }

/-- The notice of an occurrence, with the entry as it stands after it (R181). -/
def noticeFrame (b : Bridge) (count : Nat) (k : CondKind) (e : CondEntry) : Frame :=
  ⟨.notice, alerting e.severity, count, 0, b.consoleNode, b.ownNode, (condNum k).val,
    .condition e.count e.firstTime e.lastTime e.active e.severity⟩

/-- The waiting notices after a notice of kind `k` was refused its queue; one that replaces an
earlier notice of its kind keeps that notice's place (R181). -/
def holdNotice (w : List (CondKind × Port × Frame)) (k : CondKind) (p : Port) (f : Frame) :
    List (CondKind × Port × Frame) :=
  if w.any (·.1 == k) then w.map (fun x => if x.1 == k then (k, p, f) else x) else w ++ [(k, p, f)]

/-- A notice is sent: it replaces a waiting notice of its kind, or is offered and waits if refused
(R181).  The notice count rises by one modulo 16.  A notice that replaces a waiting one is not offered:
it waits for the port that the node table gives now, even in RETRAIN or DOWN (DESIGN CHOICE, log entry
58). -/
def sendNotice (k : CondKind) (s : State) : State :=
  let f := noticeFrame s.bridge s.log.noticeCount k (condEntry s.log k)
  let offered := if s.log.waiting.any (·.1 == k) then (s.bridge, Offer.refused)
    else offerOwn s.bridge f
  { s with
    bridge := offered.1
    log := { s.log with
      noticeCount := (s.log.noticeCount + 1) % 16
      waiting := if offered.2 = .refused
        then holdNotice s.log.waiting k (portFor s.bridge f.dst) f else s.log.waiting } }

/-- The log and the FAULTSTOP request after an occurrence, before its notice (R179, R180). -/
def noteOccurrence (k : CondKind) (s : State) : State :=
  { s with
    log := { s.log with
      entries := upd s.log.entries (condNum k) (occurEntry k s.mgmt.jobClock) }
    mgmt := { s.mgmt with
      stopAsked := s.mgmt.stopAsked ||
        ((condEntry s.log k).severity == .stop && s.mgmt.mode == .run) } }

/-- An occurrence: the logging of an event kind or the raising of a level kind (R180). -/
def occur (k : CondKind) (s : State) : State :=
  let e := condEntry s.log k
  if e.armed && e.severity != .ignore then sendNotice k (noteOccurrence k s)
  else noteOccurrence k s

/-- The entry after its level kind is ended by its owner (R180). -/
def endEntry (e : CondEntry) : CondEntry :=
  { e with active := false, alarm := e.alarm && !e.release, release := false }

/-- A level kind is ended by its owner. -/
def endLevel (k : CondKind) (s : State) : State :=
  { s with log := { s.log with entries := upd s.log.entries (condNum k) endEntry } }

/-- A level kind is re-evaluated by its owner: it is raised or ended only where its standing
changes (R180). -/
def setLevelKind (k : CondKind) (active : Bool) (s : State) : State :=
  if active == isActive s k then s else if active then occur k s else endLevel k s

/-- A kind logged `n` times. -/
def occurTimes (k : CondKind) (n : Nat) (s : State) : State := Nat.repeat (occur k) n s

/-! ### Row flags -/

/-- An owner tells the Mat Map Unit that one of the six row conditions was entered or has ended: the
standing follows, and an entry sets the open row's flag (R148). -/
def tellMap (f : RowFlag) (entered : Bool) (s : State) : State :=
  { s with map := { s.map with
      standing := if entered then setFlag s.map.standing f else clearFlag s.map.standing f
      row := if entered then s.map.row.map (fun r => { r with flags := setFlag r.flags f })
        else s.map.row } }

/-- The flag of a motion state, where it has one (R148). -/
def motionFlag : Motion → Option RowFlag
  | .forward => none
  | .stopped => some .stopped
  | .parked => some .parked
  | .reverse => some .reversed

/-- A flag word with a flag set, where there is one. -/
def setFlag? (w : BitVec 16) (f : Option RowFlag) : BitVec 16 :=
  match f with
  | some f => setFlag w f
  | none => w

/-- The flags a row opens with: those whose state is in force at that moment (R148). -/
def openingFlags (m : MatMap) : BitVec 16 :=
  setFlag? (setFlag? m.standing (motionFlag m.motion))
    (if m.hubMode = .faultstop then some .faultstop else none)

end Sys2Proof.Machine
end

