-- ==== Sys2Proof/Machine/Targets.lean ====
section
/-! DEFINITION. The Command Dispatcher's operations (chapter 9): a submission, a fresh command, the
end of a command by its answer, its timeouts, and FAULTSTOP. -/

namespace Sys2Proof.Machine

/-- A target. -/
def getTarget (s : State) (t : Fin 7) : Target := s.disp.targets[t]

/-- The dispatcher with one target changed. -/
def modTarget (d : Dispatcher) (t : Fin 7) (f : Target → Target) : Dispatcher :=
  { d with targets := upd d.targets t f }

/-- A target changed in its command state alone. -/
def modVars (f : TargetVars → TargetVars) (x : Target) : Target := { x with vars := f x.vars }

/-- A target's neutral value; the ENGINE row's is the floor level (9.1). -/
def neutralOf (s : State) (t : Fin 7) : Int :=
  if t = engineTarget then (s.voter.floor : Int) else (getTarget s t).row.neutral

/-- The frame of an outstanding command (R136). -/
def commandFrame (s : State) (t : Fin 7) (o : Outstanding) : Frame :=
  let row := (getTarget s t).row
  ⟨.command, t.val < 2 || s.disp.hubMode == .faultstop, o.seq, 0, row.node, s.bridge.ownNode,
    row.chan, .bytes (bytesOf 2 (unsignedOf 2 o.value))⟩

/-- A command's frame has left the dispatcher's hands: phase SENT, the ACK timer running (R136). -/
def markSent (x : Target) : Target :=
  { x with waiting := none, vars := { x.vars with ackTimer := some x.row.timeout } }

/-- A command's frame waits for admission: phase WAITING, the ACK timer stopped (R136). -/
def markWaiting (p : Port) (f : Frame) (x : Target) : Target :=
  { x with waiting := some (p, f), vars := { x.vars with ackTimer := none } }

/-- A try of an outstanding command is built and offered to its output queue (R136). -/
def offerCommand (t : Fin 7) (o : Outstanding) (s : State) : State :=
  let f := commandFrame s t o
  let r := offerOwn s.bridge f
  { s with
    bridge := r.1
    disp := modTarget s.disp t (fun x => if r.2 = .refused then markWaiting (portFor s.bridge f.dst) f x
      else markSent x) }

/-- A value is sent as a fresh command (R136). -/
def sendFresh (t : Fin 7) (v : Int) (s : State) : State :=
  let o : Outstanding := ⟨v, (getTarget s t).vars.seqCounter, 1⟩
  offerCommand t o { s with disp := modTarget s.disp t (modVars fun x =>
    { x with
      seqCounter := (x.seqCounter + 1) % 16
      outstanding := some o
      sent := satInc x.sent }) }

/-- A producer submits a value to a target (R135). -/
def submit (t : Fin 7) (v : Int) (s : State) : State :=
  let x := getTarget s t
  if !x.row.enabled then s
  else if s.disp.hubMode = .faultstop ∧ v ≠ neutralOf s t then s
  else match x.vars.outstanding with
    | none => sendFresh t v s
    | some o => { s with disp := modTarget s.disp t (modVars fun y =>
        { y with pending := if o.value = v then none else some v }) }

/-- Whether a target is LOST (R140). -/
def anyLost (d : Dispatcher) : Bool := d.targets.toList.any (·.vars.lost)

/-- TARGET_LOST is re-evaluated (R140). -/
def evalTargetLost (s : State) : State := setLevelKind .targetLost (anyLost s.disp) s

/-- A pending value goes out as the next fresh command (R137, R139). -/
def sendPending (t : Fin 7) (s : State) : State :=
  match (getTarget s t).vars.pending with
  | none => s
  | some v => sendFresh t v { s with disp := modTarget s.disp t (modVars fun y =>
      { y with pending := none }) }

/-- A target's outstanding command ends: its timer stops and a try waiting for admission is withdrawn, a
resend as R137 says, a first try too: DESIGN CHOICE, log entry 81. -/
def dropCommand (x : Target) : Target :=
  { x with waiting := none, vars := { x.vars with outstanding := none, ackTimer := none } }

/-- A matching answer ends the outstanding command (R137).  That TARGET_REJECT is logged before TARGET_LOST
is re-evaluated, and both before the pending value goes out, is DESIGN CHOICE, log entry 74. -/
def endByAck (t : Fin 7) (rejected : Bool) (s : State) : State :=
  let s := { s with disp := modTarget s.disp t (fun x => modVars (fun y =>
    { y with
      lost := false
      rejections := if rejected then satInc y.rejections else y.rejections }) (dropCommand x)) }
  let s := if rejected then occur .targetReject s else s
  sendPending t (evalTargetLost s)

/-- The enabled row that an ACK frame names by its source and channel (R137). -/
def ackTarget (s : State) (f : Frame) : Option (Fin 7) :=
  (List.finRange 7).find? fun t =>
    let row := (getTarget s t).row
    row.enabled && row.node == f.src && row.chan == f.chan

/-- An ACK frame is delivered to the dispatcher (R137). -/
def ackDelivered (f : Frame) (s : State) : State :=
  match ackTarget s f, payloadOf f with
  | some t, b :: _ =>
    match (getTarget s t).vars.outstanding with
    | some o =>
      if o.seq ≠ f.seq then s
      else if b = 0 then endByAck t false s
      else if b = 1 then endByAck t true s
      else s
    | none =>
      if (getTarget s t).vars.lost then
        evalTargetLost { s with disp := modTarget s.disp t (modVars fun y => { y with lost := false }) }
      else s
  | _, _ => s

/-- The second try of a command times out: the command is dropped, the target is LOST, and a pending
value probes it (R139). -/
def loseCommand (t : Fin 7) (s : State) : State :=
  sendPending t (evalTargetLost { s with disp := modTarget s.disp t (fun x => modVars (fun y =>
    { y with losses := satInc y.losses, lost := true }) (dropCommand x)) })

/-- The first try of a command times out: the command is sent again (R138). -/
def resendCommand (t : Fin 7) (o : Outstanding) (s : State) : State :=
  let o2 : Outstanding := { o with tries := 2 }
  offerCommand t o2 { s with disp := modTarget s.disp t (modVars fun y =>
    { y with outstanding := some o2, ackTimer := none, resends := satInc y.resends }) }

/-- What entry into FAULTSTOP does to one target (R141). -/
def neutralizeTarget (s : State) (t : Fin 7) : State :=
  let x := getTarget s t
  let n := neutralOf s t
  if !x.row.enabled then s
  else match x.vars.outstanding with
    | some o => { s with disp := modTarget s.disp t (modVars fun y =>
        { y with pending := if o.value = n then none else some n }) }
    | none => sendFresh t n s

/-- The dispatcher takes a hub mode report (R141). -/
def dispatcherMode (new : HubMode) (s : State) : State :=
  let s := { s with disp := { s.disp with hubMode := new } }
  if new = .faultstop then (List.finRange 7).foldl neutralizeTarget s else s

end Sys2Proof.Machine
end

