-- ==== Sys2Proof/Machine/Votes.lean ====
section
/-! DEFINITION. The Engine Speed Voter (6.4, 6.5): the votes, the resolved level and the requested
level. -/

namespace Sys2Proof.Machine

/-- The number of thresholds at or below an input (6.4). -/
def voteOf (ts : Vector Nat 7) (x : Nat) : Nat := ts.toList.countP (· ≤ x)

/-- The heating vote: 7 while sag stands (R95). -/
def heatingVote (v : Voter) : Nat := if v.sagStarted then 7 else voteOf v.heating v.heatInput

/-- The feed vote (R95). -/
def feedVote (v : Voter) : Nat := voteOf v.feed v.feedInput

/-- The travel vote (R95). -/
def travelVote (v : Voter) : Nat := voteOf v.travel v.travelInput

/-- A vote where its right is held, 0 where it does not count. -/
def counting (vote : Nat) (right : Bool) : Nat := if right then vote else 0

/-- The resolved level: the largest counting vote, or the floor level if that is higher (R95). -/
def resolvedLevel (v : Voter) : Nat :=
  max v.floor (max (counting (heatingVote v) v.heatRight)
    (max (counting (feedVote v) v.feedRight) (counting (travelVote v) v.travelRight)))

/-- The requested level takes a value, which is submitted to the ENGINE target (R96, R97). -/
def requestLevel (n : Nat) (s : State) : State :=
  submit engineTarget n { s with voter := { s.voter with requested := n } }

/-- The voter with its down-delay timer set. -/
def withTimer (t : Timer) (s : State) : State := { s with voter := { s.voter with timer := t } }

/-- A recomputation of the resolved level, applied to the requested level in RUN (R96). -/
def recomputeVotes (s : State) : State :=
  let r := resolvedLevel s.voter
  if s.mgmt.mode ≠ .run then s
  else if s.voter.requested < r then requestLevel r (withTimer none s)
  else if r = s.voter.requested then withTimer none s
  else match s.voter.timer with
    | some _ => s
    | none => withTimer (some (s.voter.downDelay * 1000)) s

/-- A report is written into the Voter and the votes are recomputed (R94). -/
def reportVoter (f : Voter → Voter) (s : State) : State :=
  recomputeVotes { s with voter := f s.voter }

/-- The Voter takes a hub mode report (R97). -/
def voterMode (old new : HubMode) (s : State) : State :=
  if new = .run then requestLevel (resolvedLevel s.voter) s
  else if old = .run then requestLevel s.voter.floor (withTimer none s)
  else s

end Sys2Proof.Machine
end

