-- ==== Sys2Proof/Machine/Budget.lean ====
section
/-! DEFINITION. The heater lines (5.8), the current budget and sag (6.2), and the allocation of power
to the zones (6.3). -/

namespace Sys2Proof.Machine

/-! ### Heater lines -/

/-- The on-time within a period, ms (R79). -/
def onTime (period duty : Nat) : Nat := period * 1000 * duty / 255

/-- Whether a zone's state asks for no heat (5.4). -/
def offState : ZoneState → Bool
  | .disabled | .idle | .fault => true
  | .standby | .warmup | .regulate => false

/-- Whether a zone's heater line is held off (R81). -/
def heldOff (mode : HubMode) (z : ZoneVars) : Bool :=
  offState z.state || z.overtemp || mode != .run

/-- A heater line takes the off state that holds it (R81). -/
def holdLine (mode : HubMode) (z : ZoneVars) : ZoneVars :=
  if heldOff mode z then { z with periodDuty := 0, lineOn := false } else z

/-- A zone receives an allocated duty and SHED flag; a lower duty acts within the period (R80). -/
def applyDuty (mode : HubMode) (period elapsed alloc : Nat) (shed : Bool) (z : ZoneVars) : ZoneVars :=
  if heldOff mode z || z.periodDuty ≤ alloc then { z with alloc := alloc, shed := shed }
  else { z with
    alloc := alloc
    shed := shed
    periodDuty := alloc
    lineOn := z.lineOn && elapsed < onTime period alloc }

/-- A period start: the line takes its zone's allocated duty unless it is held off (R79, R81). -/
def startPeriod (mode : HubMode) (z : ZoneVars) : ZoneVars :=
  let d := if heldOff mode z then 0 else z.alloc
  { z with periodDuty := d, lineOn := 0 < d }

/-- The period timer restarts with every period duty 0 (R82). -/
def restartPeriod (h : Heat) : Heat :=
  { h with
    elapsed := 0
    zones := tab fun i =>
      { h.zones[i] with vars := { h.zones[i].vars with periodDuty := 0, lineOn := false } } }

/-! ### The budget -/

/-- Whether the sag budget is in force (R88). -/
def sagStanding : SagState → Bool
  | .sag | .recovering => true
  | .normal | .dipping => false

/-- The current budget B (R88). -/
def budgetNow (p : Power) : Nat :=
  if sagStanding p.sag then p.entry.nominal * p.entry.sagPercent / 100 else p.entry.nominal

/-! ### Allocation (R91) -/

/-- Stage 1: a zone's demand power. -/
def demandPower (r : AllocRec) : Nat := r.rating * r.demand / 255

/-- The sum of the demand powers of a class. -/
def classDemand (recs : Vector AllocRec 16) (c : Nat) : Nat :=
  (recs.toList.map fun r => if r.cls = c then demandPower r else 0).sum

/-- The heating demand, over all records. -/
def totalDemand (recs : Vector AllocRec 16) : Nat := (recs.toList.map demandPower).sum

/-- The budget that remains for class `c`. -/
def remaining (budget : Nat) (recs : Vector AllocRec 16) : Nat → Nat
  | 0 => budget
  | c + 1 =>
    let r := remaining budget recs c
    let d := classDemand recs c
    if d ≤ r then r - d else 0

/-- Stage 2: the power granted to a zone. -/
def grantFor (budget : Nat) (recs : Vector AllocRec 16) (r : AllocRec) : Nat :=
  let left := remaining budget recs r.cls
  let d := classDemand recs r.cls
  if d ≤ left then demandPower r else demandPower r * left / d

/-- Stage 3 and R92: a record with its grant, allocated duty and SHED flag. -/
def allocateRec (budget : Nat) (recs : Vector AllocRec 16) (r : AllocRec) : AllocRec :=
  let g := grantFor budget recs r
  let a := if g = demandPower r then r.demand else g * 255 / r.rating
  { r with power := demandPower r, granted := g, alloc := a, shed := a < r.demand }

/-- All sixteen records after an allocation. -/
def allocateAll (budget : Nat) (recs : Vector AllocRec 16) : Vector AllocRec 16 :=
  tab fun i => allocateRec budget recs recs[i]

/-- The zones after an allocation: one whose allocated duty or SHED flag changed receives both
(R92). -/
def receiveAlloc (mode : HubMode) (period : Nat) (old new : Vector AllocRec 16) (h : Heat) : Heat :=
  { h with zones := tab fun i =>
      if old[i].alloc = new[i].alloc ∧ old[i].shed = new[i].shed then h.zones[i]
      else { h.zones[i] with
        vars := applyDuty mode period h.elapsed new[i].alloc new[i].shed h.zones[i].vars } }

/-- HEAT_SHED is re-evaluated and a change told to the Mat Map Unit (R92). -/
def evalHeatShed (s : State) : State :=
  let shed := s.power.records.toList.any (·.shed)
  if shed = isActive s .heatShed then s
  else tellMap .heatShed shed (setLevelKind .heatShed shed s)

/-- Allocation is made again in full (R90 to R92): the zones receive theirs, HEAT_SHED is re-evaluated, and
the heating demand is sent, in R92's order (DESIGN CHOICE, log entry 79). -/
def allocate (s : State) : State :=
  let recs := allocateAll (budgetNow s.power) s.power.records
  let s := { s with
    heat := receiveAlloc s.mgmt.mode s.power.entry.period s.power.records recs s.heat
    power := { s.power with records := recs } }
  reportVoter (fun v => { v with heatInput := totalDemand recs }) (evalHeatShed s)

/-- A demand report is written into the zone's record and allocation is made again (R90). -/
def demandReport (z : Fin 16) (zone : Zone) (s : State) : State :=
  allocate { s with power := { s.power with records := upd s.power.records z fun r =>
    { r with
      demand := zone.vars.demand
      state := zone.vars.state
      rating := zone.entry.rating
      cls := zone.entry.cls } } }

/-- The sag monitor with its state and timers set. -/
def withSag (g : SagState) (debounce recover : Timer) (s : State) : State :=
  { s with power := { s.power with sag := g, debounce := debounce, recover := recover } }

/-- Sag starts or ends: allocation, SUPPLY_SAG, the Voter and the Mat Map Unit follow, in the order of R88's
list (DESIGN CHOICE, log entry 79).  The monitor's state is already the new one. -/
def sagChanged (started : Bool) (s : State) : State :=
  let s := setLevelKind .supplySag started (allocate s)
  tellMap .sag started (reportVoter (fun v => { v with sagStarted := started }) s)

/-- The comparator's output falls below the threshold (R87). -/
def supplyFall (s : State) : State :=
  match s.power.sag with
  | .normal => withSag .dipping (some s.power.entry.debounce) none s
  | .recovering => withSag .sag none none s
  | .dipping | .sag => s

/-- The comparator's output rises above the threshold (R87). -/
def supplyRise (s : State) : State :=
  match s.power.sag with
  | .dipping => withSag .normal none none s
  | .sag => withSag .recovering none (some (s.power.entry.recover * 1000)) s
  | .normal | .recovering => s

/-- Whether the supply standing that the monitor's state implies is below the threshold (R89). -/
def impliedBelow : SagState → Bool
  | .dipping | .sag => true
  | .normal | .recovering => false

/-- A write changed the threshold select (R89): select 0 turns the comparator off; another select
makes it compare the line anew, with a free outcome. -/
def thresholdChanged (s : State) : State :=
  if s.power.entry.select = 0 then
    let wasSag := sagStanding s.power.sag
    let s := withSag .normal none none { s with power := { s.power with below := false } }
    if wasSag then sagChanged false s else s
  else
    let below := Config.supplyBelow s.samples s.power.entry.select
    let s := { s with samples := s.samples + 1, power := { s.power with below := below } }
    if below = impliedBelow s.power.sag then s else if below then supplyFall s else supplyRise s

end Sys2Proof.Machine
end

