-- ==== Sys2Proof/Machine/Heating.lean ====
section
/-! DEFINITION. The Zone Heating Controller's operations (chapter 5): temperature sources, zone
states, demand, boost, overtemperature, and the reports it takes. -/

namespace Sys2Proof.Machine

/-- A zone. -/
def getZone (s : State) (z : Fin 16) : Zone := s.heat.zones[z]

/-- The state with one zone changed. -/
def modZone (s : State) (z : Fin 16) (f : Zone → Zone) : State :=
  { s with heat := { s.heat with zones := upd s.heat.zones z f } }

/-- The state with one zone's variables changed. -/
def modZoneVars (s : State) (z : Fin 16) (f : ZoneVars → ZoneVars) : State :=
  modZone s z fun x => { x with vars := f x.vars }

/-- Whether a sensor line is FAILED. -/
def isLineFailed (s : State) (line : Nat) : Bool :=
  s.rmu.lines[lineIx line].vars.state == .failed

/-- Whether a zone may stand in for another: its enable is on and its source is PRIMARY (R67). -/
def canStandIn (s : State) (b : Nat) : Bool :=
  let x := getZone s (ix 15 b)
  x.entry.enable && x.vars.source == .primary

/-- The source that a zone's selection gives (R67). -/
def chooseSource (s : State) (e : ZoneEntry) : Source :=
  if !isLineFailed s e.primary then .primary
  else if e.spare.any (fun l => !isLineFailed s l) then .spare
  else if e.buddy.any (canStandIn s) then .buddy
  else .none

/-- A zone takes a source (R67): a change to NONE removes the temperature. -/
def takeSource (n : Source) (v : ZoneVars) : ZoneVars :=
  if n = v.source then v
  else if n = .none then { v with source := n, temp := none, age := 0, stale := false }
  else { v with source := n }

/-- Whether a zone is covered by the active column range (R39). -/
def covered (s : State) (e : ZoneEntry) : Bool := e.first ≤ s.travel.cHi && s.travel.cLo ≤ e.last

/-- Whether a state is one in which the zone heats by its temperature (R72). -/
def tracking : ZoneState → Bool
  | .warmup | .regulate => true
  | .disabled | .idle | .fault | .standby => false

/-- WARMUP or REGULATE, with the band between them for a zone already in one of them (R72). -/
def warmOrRegulate (e : ZoneEntry) (old : ZoneState) (t : Int) : ZoneState :=
  let edge := if old = .regulate then e.setpoint - 2 * e.warmBand else e.setpoint - e.warmBand
  if t < edge then .warmup else .regulate

/-- A zone's state (R71). -/
def zoneState (s : State) (x : Zone) : ZoneState :=
  if !x.entry.enable || !s.heat.master then .disabled
  else if s.mgmt.mode ≠ .run || !covered s x.entry then .idle
  else match x.vars.source, x.vars.temp with
    | .none, _ => .fault
    | _, none => .fault
    | _, some (t, _) =>
      if x.vars.stale then .fault
      else if s.travel.motion = .parked then .standby
      else warmOrRegulate x.entry x.vars.state t

/-- Duty at an error: hold duty plus the step, clamped to 0 to 255 (R74). -/
def lawDuty (e : ZoneEntry) (err : Int) : Nat :=
  (clampInt 0 255 (e.hold + Int.tdiv (err * e.gain) 10)).toNat

/-- A zone's demand duty (R74). -/
def demandOf (e : ZoneEntry) (v : ZoneVars) : Nat :=
  if v.overtemp then 0
  else match v.state, v.temp with
    | .warmup, _ => 255
    | .regulate, some (t, _) => lawDuty e (e.setpoint + v.boost - t)
    | .standby, some (t, _) => lawDuty e (e.standby - t)
    | _, _ => 0

/-- A zone's variables after its state is evaluated: an off state clears the boost, a held line goes
off, and the demand duty is recomputed (R71, R73, R74, R81). -/
def reviewVars (s : State) (x : Zone) : ZoneVars :=
  let st := zoneState s x
  let v := holdLine s.mgmt.mode
    { x.vars with state := st, boost := if offState st then 0 else x.vars.boost }
  { v with demand := demandOf x.entry v }

/-- ZONE_FAULT and ZONE_OVERTEMP are re-evaluated (R78). -/
def evalZoneKinds (s : State) : State :=
  let s := setLevelKind .zoneFault (s.heat.zones.toList.any (·.vars.state == .fault)) s
  setLevelKind .zoneOvertemp (s.heat.zones.toList.any (·.vars.overtemp)) s

/-- Whether the controller holds heating voting rights (R73). -/
def heatRightsHeld (h : Heat) : Bool :=
  h.master && h.zones.toList.any (fun x => !offState x.vars.state)

/-- The heating voting rights are re-evaluated and a change reported (R73). -/
def evalHeatRights (s : State) : State :=
  let r := heatRightsHeld s.heat
  if r = s.heat.rights then s
  else reportVoter (fun v => { v with heatRight := r })
    { s with heat := { s.heat with rights := r } }

/-- A zone's state is evaluated and all that follows from it is done (R71, R73 to R75), in the order of
R73's list: DESIGN CHOICE, log entry 79. -/
def reviewZone (z : Fin 16) (s : State) : State :=
  let old := getZone s z
  let v := reviewVars s old
  let s1 := modZoneVars s z (fun _ => v)
  let s2 := if v.demand = old.vars.demand ∧ v.state = old.vars.state then s1
    else demandReport z { old with vars := v } s1
  evalHeatRights (evalZoneKinds s2)

/-- Every zone's state is evaluated, at one report that reaches all of them (R71).  That they take it by
rising zone index, each with its demand report and allocation before the next, is DESIGN CHOICE, log entry
71. -/
def reviewAll (s : State) : State := (List.finRange 16).foldl (fun s z => reviewZone z s) s

/-- The zones whose buddy zone is `b`. -/
def dependents (s : State) (b : Fin 16) : List (Fin 16) :=
  (List.finRange 16).filter fun a => (getZone s a).entry.buddy == some b.val

/-- One zone selects its source again. -/
def selectOne (z : Fin 16) (s : State) : State :=
  modZoneVars s z (takeSource (chooseSource s (getZone s z).entry))

/-- Every zone that has `b` as its buddy selects again and is evaluated; where its source changes, so
does every zone that has it as its buddy, and so on (R67, R69).  They act by rising zone index, and before
the zone that they stand on is itself evaluated: DESIGN CHOICE, log entry 72.  A zone's source can change
twice in one event at most, so a chain is no longer than 32. -/
def reselectFrom : Nat → Fin 16 → State → State
  | 0, _, s => s
  | n + 1, b, s => (dependents s b).foldl (fun s a =>
      let t := reviewZone a (selectOne a s)
      if (getZone t a).vars.source = (getZone s a).vars.source then t else reselectFrom n a t) s

/-- The zones that have `b` as their buddy select again (R69). -/
def reselectDependents (b : Fin 16) (s : State) : State := reselectFrom 32 b s

/-- A zone selects its source again; on a change, so do the zones that have it as their buddy (R67,
R69). -/
def reselect (z : Fin 16) (s : State) : State :=
  let t := selectOne z s
  if (getZone t z).vars.source = (getZone s z).vars.source then t else reselectDependents z t

/-- The OVERTEMP flag after a comparison of a temperature with the ceiling (R77). -/
def overtempAfter (e : ZoneEntry) (t : Int) (old : Bool) : Bool :=
  if !e.enable then old
  else if e.ceiling ≤ t then true
  else if t ≤ e.ceiling - 50 then false
  else old

/-- A refresh of one zone (R68, R77). -/
def refreshOne (z : Fin 16) (t : Int) (clamped : Bool) (s : State) : State :=
  reviewZone z (modZone s z fun x => { x with vars := { x.vars with
    temp := some (t, clamped)
    age := 0
    stale := false
    overtemp := overtempAfter x.entry t x.vars.overtemp } })

/-- A refresh of zone `b` is passed on to a zone that stands on it (R69). -/
def passRefresh (t : Int) (clamped : Bool) (s : State) (a : Fin 16) : State :=
  let raw := t + (getZone s a).entry.buddyOffset
  let c := clampInt (-400) 3000 raw
  if (getZone s a).vars.source = .buddy then refreshOne a c (clamped || c != raw) s else s

/-- A refresh of a zone, passed on where its source is PRIMARY (R68, R69), by rising zone index: DESIGN
CHOICE, log entry 72. -/
def refreshZone (z : Fin 16) (t : Int) (clamped : Bool) (s : State) : State :=
  let s1 := refreshOne z t clamped s
  if (getZone s z).vars.source = .primary then
    (dependents s1 z).foldl (passRefresh t clamped) s1
  else s1

/-- Whether a line is the line of a zone's source (R68). -/
def isSourceLine (x : Zone) (line : Nat) : Bool :=
  match x.vars.source with
  | .primary => x.entry.primary == line
  | .spare => x.entry.spare == some line
  | .buddy | .none => false

/-- A zone takes a line report; `accepted` is the temperature of an ACCEPTED result (R68). -/
def zoneReport (line : Nat) (accepted : Option (Int × Bool)) (s : State) (z : Fin 16) : State :=
  let x := getZone s z
  if x.entry.primary == line || x.entry.spare == some line then
    let s1 := reselect z s
    match accepted with
    | some (t, c) => if isSourceLine (getZone s1 z) line then refreshZone z t c s1 else reviewZone z s1
    | none => reviewZone z s1
  else s

/-- A line report goes to every zone that names the line, taken by rising zone index: R60 says that they
need no order.  DESIGN CHOICE, log entry 59. -/
def lineReport (line : Nat) (accepted : Option (Int × Bool)) (s : State) : State :=
  (List.finRange 16).foldl (zoneReport line accepted) s

/-- A zone's boost after a row-close report of `v` valid and `k` COLD cells (R76). -/
def boostAfter (e : ZoneEntry) (boost : Int) (v k : Nat) : Int :=
  if v = 0 then boost
  else if e.trigger * v ≤ k * 1000 then min (boost + e.boostStep) e.boostMax
  else if k = 0 then max (boost - e.boostStep) 0
  else boost

/-- A zone takes its counts of a row-close report (R76). -/
def zoneRowClose (counts : Fin 16 → Nat × Nat) (s : State) (z : Fin 16) : State :=
  let x := getZone s z
  if x.vars.state = .regulate then
    reviewZone z (modZoneVars s z fun v =>
      { v with boost := boostAfter x.entry v.boost (counts z).1 (counts z).2 })
  else s

/-- The row-close report goes to every zone (R76, R153), by rising zone index: DESIGN CHOICE, log entry
71. -/
def rowCloseReport (counts : Fin 16 → Nat × Nat) (s : State) : State :=
  (List.finRange 16).foldl (zoneRowClose counts) s

/-- A zone's variables after an accepted write of its entry, before selection and evaluation (R64,
R70, R77).  OVERTEMP is judged with the temperature and the stale flag from before the same write's
selection and stale time: DESIGN CHOICE, log entry 60. -/
def varsAfterWrite (old new : ZoneEntry) (v : ZoneVars) : ZoneVars :=
  let hot :=
    if !new.enable then false
    else match v.temp with
      | some (t, _) =>
        if new.ceiling ≠ old.ceiling ∧ !v.stale then overtempAfter new t v.overtemp else v.overtemp
      | none => v.overtemp
  { v with
    stale := if new.staleTime ≠ old.staleTime then v.temp.isSome && new.staleTime ≤ v.age else v.stale
    overtemp := hot
    boost := min v.boost new.boostMax }

/-- The effects of an accepted zone write (R64). -/
def zoneWritten (z : Fin 16) (new : ZoneEntry) (s : State) : State :=
  let old := (getZone s z).entry
  let s1 := modZone s z fun x => ⟨new, varsAfterWrite old new x.vars⟩
  let s2 :=
    if new.primary ≠ old.primary ∨ new.spare ≠ old.spare ∨ new.buddy ≠ old.buddy ∨
        new.enable ≠ old.enable then
      let t := reselect z s1
      if new.enable ≠ old.enable then reselectDependents z t else t
    else s1
  let s3 := reviewZone z s2
  if new.rating ≠ old.rating ∨ new.cls ≠ old.cls then demandReport z (getZone s3 z) s3 else s3

end Sys2Proof.Machine
end

