-- ==== Sys2Proof/Machine/Levelling.lean ====
section
/-! DEFINITION. The Levelling Controller's operations (chapter 7): targets and the profile, the valve
law, the side states with what each entry submits and reports, confidence, and the reports it
takes. -/

namespace Sys2Proof.Machine

/-! ### The profile (7.7) -/

/-- The field of the profile that a computation reads. -/
inductive ProfileField | left | right | slope
  deriving DecidableEq, Repr

/-- A profile entry's value of a field. -/
def fieldOf (f : ProfileField) (e : ProfileEntry) : Int :=
  match f with
  | .left => e.left
  | .right => e.right
  | .slope => e.slope

/-- The valid entries in index order. -/
def validEntries (p : Vector ProfileEntry 64) : List ProfileEntry := p.toList.filter (·.valid)

/-- The value between two neighbouring valid entries (R117). -/
def interpolate (f : ProfileField) (a b : ProfileEntry) (s : Int) : Int :=
  fieldOf f a + roundDiv ((fieldOf f b - fieldOf f a) * (s - a.station)) (b.station - a.station)

/-- The value at a station at or after the first entry of the list (R117). -/
def profileFrom (f : ProfileField) (s : Int) : List ProfileEntry → Int
  | [] => 0
  | [a] => fieldOf f a
  | a :: b :: rest =>
    if s < b.station then
      if s < a.station then fieldOf f a else interpolate f a b s
    else profileFrom f s (b :: rest)

/-- profile(s) for one field (R117). -/
def profileAt (p : Vector ProfileEntry 64) (f : ProfileField) (s : Int) : Int :=
  profileFrom f s (validEntries p)

/-- Whether a station lies beyond the end of the profile (R117). -/
def beyondEnd (p : Vector ProfileEntry 64) (s : Int) : Bool :=
  match (validEntries p).getLast? with
  | some e => e.station < s
  | none => false

/-- The profile field a side follows in a mode. -/
def sideField (d : Side) (m : LevelMode) : ProfileField :=
  match m, d with
  | .slope, _ => .slope
  | _, .left => .left
  | _, .right => .right

/-- Whether a mode is automatic (7.2). -/
def automatic : LevelMode → Bool
  | .manual => false
  | .grade | .slope => true

/-- The slot that a side follows (7.2). -/
def followedSlot (d : Side) (m : LevelMode) : Option Nat :=
  match m, d with
  | .manual, _ => none
  | .grade, .left => some 2
  | .grade, .right => some 3
  | .slope, _ => some 4

/-- A side's target at a station (R113, R114): none for a GRADE side with no base. -/
def sideTarget (p : Vector ProfileEntry 64) (d : Side) (v : SideVars) (s : Int) : Option Int :=
  match v.mode with
  | .slope => some (profileAt p .slope s)
  | .grade => v.base.map fun b => clampInt (-5000) 5000 (b + profileAt p (sideField d .grade) s)
  | .manual => v.target

/-! ### The valve law (7.6) -/

/-- The command for an error (R115). -/
def valveCommand (e : LevelEntry) (err : Int) : Int :=
  if err.natAbs ≤ e.deadband then 0
  else err.sign * (min e.maximum (e.minimum + (err.natAbs - e.deadband) * e.gain / 10) : Nat)

/-! ### Sides in the state -/

/-- A side's record. -/
def sideVars (s : State) (d : Side) : SideVars := (getLevel s.level d).vars

/-- The state with one side's record changed. -/
def modSide (d : Side) (s : State) (f : SideVars → SideVars) : State :=
  { s with level := modLevel s.level d f }

/-- PROFILE_END is re-evaluated (R118). -/
def evalProfileEnd (s : State) : State :=
  setLevelKind .profileEnd (s.level.left.vars.beyond || s.level.right.vars.beyond) s

/-- A side evaluates its target and beyond-end flag; in STANDBY the flag is clear (R118). -/
def evalTarget (d : Side) (s : State) : State :=
  let v := sideVars s d
  if v.state = .standby then evalProfileEnd (modSide d s fun v => { v with beyond := false })
  else evalProfileEnd (modSide d s fun v =>
    { v with
      target := sideTarget s.level.profile d v s.travel.station
      beyond := beyondEnd s.level.profile s.travel.station })

/-- A side submits a value to its valve target (R103). -/
def submitValve (d : Side) (n : Int) (s : State) : State :=
  submit (valveOf d) n (modSide d s fun v => { v with lastSubmitted := some n })

/-- The row flag of a side's HOLD. -/
def holdFlag : Side → RowFlag
  | .left => .levelHoldL
  | .right => .levelHoldR

/-- The reports of an entry into or a leaving of HOLD (R105). -/
def holdReports (d : Side) (entered : Bool) (s : State) : State :=
  let s := tellMap (holdFlag d) entered s
  setLevelKind .levelHold
    (s.level.left.vars.state == .hold || s.level.right.vars.state == .hold) s

/-- A side changes to another state: the reports where HOLD is entered or left, the evaluation of the
target, and the neutral submission of every entry but that into ACTIVE (R103, R105, R118), in this order:
DESIGN CHOICE, log entry 62.  A side already in the state stays in it without a new entry. -/
def enterState (d : Side) (n : LevelState) (s : State) : State :=
  let old := (sideVars s d).state
  if n = old then s
  else
    let s := modSide d s fun v =>
      { v with state := n, remembered := if n = .frozen then v.remembered else none }
    let s := if n = .hold then holdReports d true s
      else if old = .hold then holdReports d false s else s
    if n = .active then s
    else submitValve d (neutralOf s (valveOf d)) (evalTarget d s)

/-- A side enters FROZEN, or stays in it, with the state it remembers (R102, R111). -/
def freeze (d : Side) (r : Remembered) (s : State) : State :=
  enterState d .frozen (modSide d s fun v => { v with remembered := some r })

/-! ### Readings (7.3) -/

/-- A side in ACTIVE uses a valid reading: it evaluates its target and submits the command where that
differs from its last submitted value (R103, R115). -/
def useReading (d : Side) (r : Int) (s : State) : State :=
  let s := evalTarget d s
  match (sideVars s d).target with
  | none => s
  | some t =>
    let c := valveCommand (getLevel s.level d).entry (t - r)
    if (sideVars s d).lastSubmitted = some c then s else submitValve d c s

/-- Whether a reading is valid (R106). -/
def validReading (e : LevelEntry) (v : SideVars) (r : Int) (q : Quality) : Bool :=
  q == .good && (match v.lastValid with
    | none => true
    | some l => (r - l).natAbs ≤ e.jump)

/-- The base of a side that enters ACTIVE (R113). -/
def captureBase (p : Vector ProfileEntry 64) (d : Side) (r s : Int) (v : SideVars) : SideVars :=
  if v.mode = .grade ∧ v.base = none then
    { v with base := some (r - profileAt p (sideField d .grade) s) }
  else v

/-- A side takes a valid reading (R106, R107). -/
def takeValid (d : Side) (r : Int) (s : State) : State :=
  let e := (getLevel s.level d).entry
  let s := modSide d s fun v =>
    { v with lastValid := some r, counter := min (v.counter + 1) e.limit }
  match (sideVars s d).state with
  | .active => useReading d r s
  | .acquire | .hold =>
    if e.engage ≤ (sideVars s d).counter then
      useReading d r (enterState d .active
        (modSide d s (captureBase s.level.profile d r s.travel.station)))
    else s
  | .standby | .frozen => s

/-- A side takes an invalid reading; an ACTIVE side whose counter falls to the release level is
released (R107, R108). -/
def takeInvalid (d : Side) (s : State) : State :=
  let e := (getLevel s.level d).entry
  let s := modSide d s fun v => { v with counter := v.counter - 1 }
  let v := sideVars s d
  if v.state = .active ∧ v.counter ≤ e.release then enterState d .hold s else s

/-- Whether a side counts readings in its state (R106). -/
def countsReadings : LevelState → Bool
  | .acquire | .active | .hold => true
  | .standby | .frozen => false

/-- A side takes an update report of a slot (R106). -/
def levelUpdate (slot : Nat) (r : Int) (q : Quality) (s : State) (d : Side) : State :=
  let v := sideVars s d
  if s.mgmt.mode ≠ .run ∨ followedSlot d v.mode ≠ some slot ∨ !countsReadings v.state then s
  else if validReading (getLevel s.level d).entry v r q then takeValid d r s
  else takeInvalid d s

/-- A side's confidence is lost at once (R109, R110). -/
def loseConfidence (d : Side) (s : State) : State :=
  let s := modSide d s fun v => { v with counter := 0 }
  match (sideVars s d).state with
  | .acquire | .active | .hold => enterState d .hold s
  | .frozen => modSide d s fun v => { v with remembered := some .hold }
  | .standby => s

/-- A side takes a STALE report of a slot (R109). -/
def levelStale (slot : Nat) (s : State) (d : Side) : State :=
  let v := sideVars s d
  if s.mgmt.mode ≠ .run ∨ followedSlot d v.mode ≠ some slot then s
  else loseConfidence d (modSide d s fun v => { v with lastValid := none })

/-- A side takes a LOST report of its valve target (R110). -/
def levelLost (d : Side) (s : State) : State :=
  if s.mgmt.mode = .run then loseConfidence d s else s

/-! ### Reports of the other blocks -/

/-- Both sides in turn, left then right: DESIGN CHOICE, log entry 63. -/
def bothSides (f : State → Side → State) (s : State) : State := f (f s .left) .right

/-- A side takes a motion report in RUN (R111, R112). -/
def sideMotion (new : Motion) (s : State) (d : Side) : State :=
  let v := sideVars s d
  let e := (getLevel s.level d).entry
  match new, v.state with
  | .forward, .frozen =>
    let s := modSide d s fun v => { v with lastValid := none }
    match v.remembered with
    | some .active => enterState d (if v.counter ≤ e.release then .hold else .active) s
    | some .hold => enterState d .hold s
    | some .acquire | none => enterState d .acquire s
  | .forward, _ => s
  | _, .acquire => freeze d .acquire s
  | _, .active => freeze d .active s
  | _, .hold => freeze d .hold s
  | _, _ => s

/-- The Levelling Controller takes a motion report (R111, R112). -/
def levelMotion (new : Motion) (s : State) : State :=
  let s := { s with level := { s.level with motion := new } }
  if s.mgmt.mode = .run then bothSides (sideMotion new) s else s

/-- A side takes a station report or a profile write (R116, R118). -/
def sideStation (s : State) (d : Side) : State :=
  if (sideVars s d).state = .standby then s else evalTarget d s

/-- The Levelling Controller takes a station report (R118). -/
def levelStation (s : State) : State := bothSides sideStation s

/-- A side's record with its confidence, readings and base cleared. -/
def clearSide (v : SideVars) : SideVars := { v with counter := 0, lastValid := none, base := none }

/-- A side set going in RUN (R102, R104). -/
def startSide (d : Side) (s : State) : State :=
  if s.level.motion = .forward then enterState d .acquire s else freeze d .acquire s

/-- A side takes a hub mode report (R104).  Entry into FAULTSTOP keeps the last valid reading, as it
keeps the counter and the base: DESIGN CHOICE, log entry 61. -/
def sideMode (old new : HubMode) (s : State) (d : Side) : State :=
  let v := sideVars s d
  match new with
  | .run => if automatic v.mode && old = .config then startSide d (modSide d s clearSide) else s
  | .faultstop => if automatic v.mode then enterState d .hold s else s
  | .config =>
    if v.state = .standby then s
    else enterState d .standby (modSide d s fun v => { clearSide v with target := none })

/-- The Levelling Controller takes a hub mode report (R104). -/
def levelMode (old new : HubMode) (s : State) : State := bothSides (sideMode old new) s

/-- A side's state after its mode was set (R102). -/
def sideModeSet (d : Side) (m : LevelMode) (s : State) : State :=
  if !automatic m then enterState d .standby s
  else match s.mgmt.mode with
    | .config => enterState d .standby s
    | .faultstop => enterState d .hold s
    | .run => startSide d s

/-- The effects of an accepted write of a side's parameters (R101). -/
def levelWritten (d : Side) (e : LevelEntry) (s : State) : State :=
  let s := { s with level := match d with
    | .left => { s.level with left := { s.level.left with entry := e } }
    | .right => { s.level with right := { s.level.right with entry := e } } }
  let s := modSide d s fun v => { v with counter := min v.counter e.limit }
  let v := sideVars s d
  if v.counter ≤ e.release then
    match v.state, v.remembered with
    | .active, _ => enterState d .hold s
    | .frozen, some .active => modSide d s fun v => { v with remembered := some .hold }
    | _, _ => s
  else s

/-! ### Protection of the profile (7.8) -/

/-- Whether a profile entry is protected (R119). -/
def isProtected (p : Protection) (i : Nat) : Bool :=
  let named := if p.span = 7 then false
    else match p.anchor with
      | .first => decide (i < 2 ^ p.span)
      | .last => decide (64 - 2 ^ p.span ≤ i)
  named != p.invert

/-- Whether the lock forbids a write of a protected entry or of the protection entry (R120). -/
def lockForbids (m : LockMode) (key : Bool) : Bool :=
  match m with
  | .opened => false
  | .key => key
  | .frozen => true

/-- Whether a station keeps the valid entries' stations strictly ascending at index `i` (R116): the
nearest valid neighbours on both sides are the last below and the first above. -/
def ordered (p : Vector ProfileEntry 64) (i : Nat) (station : Int) : Bool :=
  (match ((p.toList.take i).filter (·.valid)).getLast? with
    | some e => decide (e.station < station)
    | none => true) &&
  (match ((p.toList.drop (i + 1)).filter (·.valid)).head? with
    | some e => decide (station < e.station)
    | none => true)

end Sys2Proof.Machine
end

