-- ==== Sys2Proof/Machine/Feeding.lean ====
section
/-! DEFINITION. The Feed Controller's operations (chapter 8): the curve and width scaling, the side
states with what each entry submits and reports, starvation, and the reports it takes. -/

namespace Sys2Proof.Machine

/-! ### Curve and width scaling (R124) -/

/-- The value of a curve between two breakpoints, rounded down (R124). -/
def curveBetween (a b : Nat × Nat) (l : Nat) : Nat :=
  (((a.2 : Int) + Int.fdiv (((b.2 : Int) - a.2) * ((l : Int) - a.1)) ((b.1 : Int) - a.1))).toNat

/-- The value of a curve at a level at or above its first breakpoint (R124). -/
def curveFrom (l : Nat) : List (Nat × Nat) → Nat
  | [] => 0
  | [a] => a.2
  | a :: b :: rest =>
    if l < b.1 then (if l ≤ a.1 then a.2 else curveBetween a b l) else curveFrom l (b :: rest)

/-- curve(L) (R124): the conveyor command. -/
def curveAt (e : FeedEntry) (l : Nat) : Nat := curveFrom l e.points.toList

/-- The auger command (R124). -/
def augerFor (conveyor half baseHalf : Nat) : Nat := min (conveyor * half / baseHalf) 1000

/-- The half width a side uses (R124). -/
def halfOf (x : Feed) : Side → Nat
  | .left => x.leftHalf
  | .right => x.rightHalf

/-! ### Sides in the state -/

/-- A side's record. -/
def feedVars (s : State) (d : Side) : FeedVars := (getFeed s.feed d).vars

/-- The state with one side's record changed. -/
def modFeedSide (d : Side) (s : State) (f : FeedVars → FeedVars) : State :=
  { s with feed := modFeed s.feed d f }

/-- Whether a state follows the curve (8.3). -/
def feedRuns : FeedState → Bool
  | .running | .starved => true
  | .standby | .paused | .sensorless => false

/-- Whether a state holds voting rights (R128). -/
def feedVotes : FeedState → Bool
  | .running | .starved | .sensorless => true
  | .standby | .paused => false

/-- The largest of the four current commands (R128). -/
def largestFeed (x : Feed) : Nat :=
  max (max x.left.vars.conveyor x.left.vars.auger) (max x.right.vars.conveyor x.right.vars.auger)

/-- Whether the controller holds feed voting rights (R128). -/
def feedRights (x : Feed) : Bool := feedVotes x.left.vars.state || feedVotes x.right.vars.state

/-- A feed report is sent where the largest command or the rights have changed (R128). -/
def feedReport (s : State) : State :=
  if largestFeed s.feed = s.voter.feedInput ∧ feedRights s.feed = s.voter.feedRight then s
  else reportVoter (fun v => { v with
    feedInput := largestFeed s.feed
    feedRight := feedRights s.feed }) s

/-- A side submits a conveyor command (R127). -/
def submitConveyor (d : Side) (n : Int) (s : State) : State :=
  submit (conveyorOf d) n (modFeedSide d s fun v => { v with lastConveyor := some n })

/-- A side submits an auger command (R127). -/
def submitAuger (d : Side) (n : Int) (s : State) : State :=
  submit (augerOf d) n (modFeedSide d s fun v => { v with lastAuger := some n })

/-- A side submits its stop values, the conveyor's first (R127): DESIGN CHOICE, log entry 63. -/
def submitStop (d : Side) (s : State) : State :=
  let s := submitConveyor d (neutralOf s (conveyorOf d)) s
  submitAuger d (neutralOf s (augerOf d)) s

/-- A side in RUNNING or STARVED recomputes its commands from its held level and submits each that
differs from the last value submitted to its target (R127), the conveyor's first (DESIGN CHOICE, log
entry 63), and the feed report follows (DESIGN CHOICE, log entry 65). -/
def recomputeFeed (d : Side) (s : State) : State :=
  let v := feedVars s d
  match v.held with
  | none => s
  | some l =>
    if feedRuns v.state then
      let c := curveAt (getFeed s.feed d).entry l
      let a := augerFor c (halfOf s.feed d) s.feed.baseHalf
      let s := modFeedSide d s fun v => { v with conveyor := c, auger := a }
      let s := if v.lastConveyor = some (c : Int) then s else submitConveyor d c s
      let s := if v.lastAuger = some (a : Int) then s else submitAuger d a s
      feedReport s
    else s

/-- The row flag of a side's starving. -/
def starveFlag : Side → RowFlag
  | .left => .feedStarvedL
  | .right => .feedStarvedR

/-- The reports of an entry into or an ending of STARVED (R131). -/
def starveReports (d : Side) (entered : Bool) (s : State) : State :=
  let s := tellMap (starveFlag d) entered s
  setLevelKind .feedStarved
    (s.feed.left.vars.state == .starved || s.feed.right.vars.state == .starved) s

/-- A side changes to another state (R125 to R131): the starve timer stops, STARVED entered or left
is reported, a stopped state submits the stop values, RUNNING recomputes, and the feed report comes last
(DESIGN CHOICE, log entry 65).  A side already in the state stays in it without a new entry. -/
def enterFeed (d : Side) (n : FeedState) (s : State) : State :=
  let v := feedVars s d
  if n = v.state then s
  else
    let s := modFeedSide d s fun v =>
      { v with
        state := n
        starve := none
        conveyor := if feedRuns n then v.conveyor else 0
        auger := if feedRuns n then v.auger else 0 }
    let s := if n = .starved then starveReports d true s
      else if v.state = .starved then starveReports d false s else s
    let s := if feedRuns n then s else submitStop d s
    feedReport (if n = .running then recomputeFeed d s else s)

/-- Whether a side starves: its conveyor at or above 950 and its held level below its low mark
(R131). -/
def isStarving (e : FeedEntry) (v : FeedVars) : Bool :=
  950 ≤ v.conveyor && v.held.any (· < e.lowMark)

/-- The starving test of a side in RUNNING (R131). -/
def testStarving (d : Side) (s : State) : State :=
  let e := (getFeed s.feed d).entry
  if (feedVars s d).state = .running then
    modFeedSide d s fun v =>
      if isStarving e v then
        match v.starve with
        | some _ => v
        | none => { v with starve := some (e.starveTime * 1000) }
      else { v with starve := none }
  else s

/-- A STARVED side whose held level is at or above its low mark returns to RUNNING (R131). -/
def endStarving (d : Side) (s : State) : State :=
  let v := feedVars s d
  if v.state = .starved ∧ v.held.any (fun l => (getFeed s.feed d).entry.lowMark ≤ l) then
    enterFeed d .running s
  else s

/-- A side recomputes after a level update or an entry write, and tests for starving (R123, R129,
R131). -/
def recomputeAndTest (d : Side) (s : State) : State :=
  testStarving d (endStarving d (recomputeFeed d s))

/-- The AUTO entry test (R125). -/
def autoEntry (d : Side) (s : State) : State :=
  if s.feed.motion = .parked then enterFeed d .paused s
  else if (feedVars s d).fresh then enterFeed d .running s
  else enterFeed d .sensorless s

/-- A side takes a level update (R129). -/
def feedUpdate (d : Side) (l : Nat) (s : State) : State :=
  let s := modFeedSide d s fun v => { v with held := some l, fresh := true }
  match (feedVars s d).state with
  | .standby | .paused => s
  | .sensorless => testStarving d (enterFeed d .running s)
  | .running | .starved => recomputeAndTest d s

/-- A side takes a STALE report of its level slot (R129). -/
def feedStale (d : Side) (s : State) : State :=
  let s := modFeedSide d s fun v => { v with fresh := false }
  if feedRuns (feedVars s d).state then enterFeed d .sensorless s else s

/-- The Feed Controller takes a geometry report (R129), left then right: DESIGN CHOICE, log entry 63. -/
def feedGeometry (left right base : Nat) (s : State) : State :=
  let old := s.feed
  let s := { s with feed := { s.feed with leftHalf := left, rightHalf := right, baseHalf := base } }
  let s := if left ≠ old.leftHalf ∨ base ≠ old.baseHalf then recomputeFeed .left s else s
  if right ≠ old.rightHalf ∨ base ≠ old.baseHalf then recomputeFeed .right s else s

/-- A side takes a motion report in RUN (R130). -/
def sideFeedMotion (new : Motion) (s : State) (d : Side) : State :=
  match new, (feedVars s d).state with
  | .parked, .running | .parked, .starved | .parked, .sensorless => enterFeed d .paused s
  | .forward, .paused | .reverse, .paused => autoEntry d s
  | _, _ => s

/-- The Feed Controller takes a motion report (R130). -/
def feedMotion (new : Motion) (s : State) : State :=
  let s := { s with feed := { s.feed with motion := new } }
  if s.feed.hubMode = .run then bothSides (sideFeedMotion new) s else s

/-- A side takes a hub mode report (R126). -/
def sideFeedMode (new : HubMode) (s : State) (d : Side) : State :=
  match new with
  | .run => if (feedVars s d).mode = .auto then
      autoEntry d (modFeedSide d s fun v => { v with starve := none }) else s
  | .config | .faultstop => enterFeed d .standby s

/-- The Feed Controller takes a hub mode report (R126). -/
def feedHubMode (new : HubMode) (s : State) : State :=
  bothSides (sideFeedMode new) { s with feed := { s.feed with hubMode := new } }

/-- A side's state after its mode was set (R125). -/
def feedModeSet (d : Side) (m : FeedMode) (s : State) : State :=
  match m, s.feed.hubMode with
  | .auto, .run => autoEntry d s
  | _, _ => enterFeed d .standby s

/-- The effects of an accepted write of a feed entry (R123). -/
def feedWritten (d : Side) (e : FeedEntry) (s : State) : State :=
  recomputeAndTest d { s with feed := match d with
    | .left => { s.feed with left := { s.feed.left with entry := e } }
    | .right => { s.feed with right := { s.feed.right with entry := e } } }

end Sys2Proof.Machine
end

