-- ==== Sys2Proof/Machine/Mat.lean ====
section
/-! DEFINITION. The Mat Map Unit's operations (chapter 10): scan assembly, the open row and its close,
records, the record queue and gaps, and the reports it takes. -/

namespace Sys2Proof.Machine

/-! ### Records, the queue and gaps (10.6) -/

/-- A record is offered to the queue (R154): whether it was placed.  An open gap closes into a GAP
record ahead of it. -/
def placeRecord (r : Record) (s : State) : State × Bool :=
  match s.map.gap with
  | none =>
    if s.map.queue.length + 1 ≤ Config.recordPlaces then
      ({ s with map := { s.map with queue := s.map.queue ++ [r] } }, true)
    else (s, false)
  | some g =>
    if s.map.queue.length + 2 ≤ Config.recordPlaces then
      (occur .recordGap
        { s with map := { s.map with queue := s.map.queue ++ [.gap g, r], gap := none } }, true)
    else (s, false)

/-- A gap's count of rows grows. -/
def addRows (a k : Nat) : Nat := if a + k ≤ 4294967295 then a + k else Config.gapRowsBeyond (a + k)

/-- Rows counted into the gap, which opens with them if none is open (R155). -/
def gapRows (first last : Int) (k : Nat) (reason : GapReason) (s : State) : State :=
  { s with map := { s.map with gap := match s.map.gap with
      | none => some ⟨first, last, k, reason, false, s.mgmt.jobClock⟩
      | some g => some { g with rows := addRows g.rows k, last := last } } }

/-- A RESTART that was not placed is noted in the gap (R155). -/
def gapRestart (station : Int) (s : State) : State :=
  { s with map := { s.map with gap := match s.map.gap with
      | none => some ⟨station, station, 0, .queueFull, true, s.mgmt.jobClock⟩
      | some g => some { g with restart := true } } }

/-- The end of the gap on leaving for CONFIG and at a control reset: a GAP record where a place is
free, else nothing (R156, R159). -/
def closeGap (s : State) : State :=
  match s.map.gap with
  | none => s
  | some g => occur .recordGap { s with map := { s.map with
      gap := none
      queue := if s.map.queue.length < Config.recordPlaces then s.map.queue ++ [.gap g]
        else s.map.queue } }

/-! ### Rows (10.4, 10.5) -/

/-- A row opened at a station (R148, R149, R150). -/
def newRow (m : MatMap) (start : Int) : OpenRow :=
  ⟨start, m.entry.pitch, .replicate 64 ⟨0, 0⟩, none, false, openingFlags m⟩

/-- A cell's mean, where it is valid (R151). -/
def cellMean (c : MatCell) : Option Nat := if c.count = 0 then none else some (c.sum / c.count)

/-- Whether a cell is COLD (R151). -/
def isCold (limit : Nat) (c : MatCell) : Bool := (cellMean c).any (· < limit)

/-- The cold runs from column `i` on, with the run in progress (R152). -/
def coldRuns : List Bool → Nat → Option (Nat × Nat) → List (Nat × Nat)
  | [], _, run => run.toList
  | true :: rest, i, none => coldRuns rest (i + 1) (some (i, 1))
  | true :: rest, i, some (c, n) => coldRuns rest (i + 1) (some (c, n + 1))
  | false :: rest, i, run => run.toList ++ coldRuns rest (i + 1) none

/-- The first six runs, unused places at start 0 and length 0 (R152). -/
def runList (runs : List (Nat × Nat)) : List (Nat × Nat) :=
  runs.take 6 ++ List.replicate (6 - runs.length) (0, 0)

/-- The three flags set at a close (R151). -/
def closeFlags (m : MatMap) (row : OpenRow) (means : List Nat) (runs : List (Nat × Nat)) : BitVec 16 :=
  let spread := means.foldl max 0 - means.foldl min 255
  let w := row.flags
  let w := if means ≠ [] ∧ m.entry.seg < spread then setFlag w .segregated else w
  let w := if row.scanned then w else setFlag w .noScan
  if 6 < runs.length then setFlag w .runsOverflow else w

/-- The ROW record of a closing row (R151, R152). -/
def rowRecord (m : MatMap) (clock : Nat) (row : OpenRow) : RowRecord :=
  let cells := row.cells.toList
  let means := cells.filterMap cellMean
  let runs := coldRuns (cells.map (isCold m.entry.cold)) 0 none
  let cols := if row.scanned then row.span.getD (m.cLo, m.cHi) else (m.cLo, m.cHi)
  { clock := clock
    station := row.start
    pitch := row.pitch
    colLo := cols.1
    colHi := cols.2
    valid := means.length
    cold := cells.countP (isCold m.entry.cold)
    min := means.foldl min 255
    max := if means = [] then 255 else means.foldl max 0
    mean := if means = [] then 255 else means.sum / means.length
    flags := closeFlags m row means runs
    runCount := runs.length
    runs := runList runs }

/-- The counts of valid and COLD cells over a zone's span (R153). -/
def zoneCounts (cold : Nat) (row : OpenRow) (e : ZoneEntry) : Nat × Nat :=
  let cells := (row.cells.toList.take (e.last + 1)).drop e.first
  (cells.countP (fun c => (cellMean c).isSome), cells.countP (isCold cold))

/-- The open row closes (step 1 of R150): its record is placed or counted into the gap (R151, R154,
R155), and the row-close report is sent (R153).  That the record goes first is DESIGN CHOICE, log entry
36. -/
def closeRow (row : OpenRow) (s : State) : State :=
  let counts := fun z : Fin 16 => zoneCounts s.map.entry.cold row (getZone s z).entry
  let r := placeRecord (.row (rowRecord s.map s.mgmt.jobClock row)) s
  rowCloseReport counts
    (if r.2 then r.1 else gapRows row.start (row.start + row.pitch) 1 .queueFull r.1)

/-- The open row closes; then the rows crossed with no scan are counted as SKIPPED; then a new row opens,
with the flags of the conditions as they stand by then (R150). -/
def closeRows (row : OpenRow) (k : Nat) (s : State) : State :=
  let s := closeRow row s
  let e := row.start + row.pitch
  let next := row.start + (k : Int) * row.pitch
  let s := if 1 < k then gapRows e next (k - 1) .skipped s else s
  { s with map := { s.map with row := some (newRow s.map next) } }

/-- The Mat Map Unit takes a station report: it updates its copies and closes the rows that the
high-water station has crossed (R150, R153). -/
def mapStation (station highWater : Int) (s : State) : State :=
  let s := { s with map := { s.map with station := station, highWater := highWater } }
  match s.map.row with
  | none => s
  | some row =>
    let e := row.start + row.pitch
    if highWater < e then s
    else
      closeRows row (1 + (Int.fdiv (highWater - e) row.pitch).toNat) s

/-! ### Scans (10.2, 10.3) -/

/-- A cell takes a reading (R147). -/
def takeReading (b : Byte) (c : MatCell) : MatCell :=
  if 250 < b.toNat ∨ 65535 ≤ c.count then c else ⟨c.count + 1, c.sum + b.toNat⟩

/-- The byte that a scan holds for a column (R147). -/
def scanByte (segs : Vector (Option (List Byte)) 4) (col : Nat) : Option Byte :=
  (segs[ix 3 (col / 16)]).bind fun l => l[col % 16]?

/-- The open row after a scan is taken into it (R147). -/
def takeScan (m : MatMap) (row : OpenRow) : OpenRow :=
  { row with
    scanned := true
    span := match row.span with
      | none => some (m.cLo, m.cHi)
      | some (lo, hi) => some (min lo m.cLo, max hi m.cHi)
    cells := tab fun i =>
      if m.cLo ≤ i.val ∧ i.val ≤ m.cHi then
        match scanByte m.segs i.val with
        | some b => takeReading b row.cells[i]
        | none => row.cells[i]
      else row.cells[i] }

/-- The scan held is applied, whole or partially, and the buffer empties (R147). -/
def applyScan (m : MatMap) : MatMap :=
  let held := { m with
    scan := none
    segs := .replicate 4 none
    window := none
    lastApplied := m.scan }
  match m.row with
  | some row =>
    if m.motion = .forward ∧ m.highWater ≤ m.station then
      { held with taken := satInc m.taken, row := some (takeScan m row) }
    else { held with notTaken := satInc m.notTaken }
  | none => { held with notTaken := satInc m.notTaken }

/-- An empty buffer takes a segment of a scan (R145). -/
def beginScan (n seg : Nat) (l : List Byte) (m : MatMap) : MatMap :=
  { m with
    scan := some n
    segs := (Vector.replicate 4 none).set (ix 3 seg) (some l)
    window := some Config.assemblyTime }

/-- Whether a SCAN frame is ignored (R145). -/
def scanIgnored (m : MatMap) (f : Frame) : Bool :=
  m.entry.scanner != some f.src || 3 < f.chan || (payloadOf f).length != 16

/-- The Mat Map Unit is offered a SCAN frame (R145). -/
def scanOffered (f : Frame) (s : State) : State :=
  let m := s.map
  let l := payloadOf f
  if scanIgnored m f then { s with map := { m with ignored := satInc m.ignored } }
  else match m.scan with
    | none =>
      if m.lastApplied = some f.seq then { s with map := { m with ignored := satInc m.ignored } }
      else { s with map := beginScan f.seq f.chan l m }
    | some n =>
      if n = f.seq then
        let m := { m with segs := m.segs.set (ix 3 f.chan) (some l) }
        { s with map := if m.segs.toList.all (·.isSome) then applyScan m else m }
      else
        let s := occur .scanIncomplete { s with map := applyScan m }
        { s with map := beginScan f.seq f.chan l s.map }

/-! ### Reports of the other blocks -/

/-- The Mat Map Unit takes a motion report (R148). -/
def mapMotion (new : Motion) (s : State) : State :=
  { s with map := { s.map with
      motion := new
      row := s.map.row.map fun r => { r with flags := setFlag? r.flags (motionFlag new) } } }

/-- The Mat Map Unit takes a geometry report (R147). -/
def mapGeometry (cLo cHi : Nat) (s : State) : State :=
  { s with map := { s.map with cLo := cLo, cHi := cHi } }

/-- Entry into RUN: the RESTART record and the first row of the run (R149). -/
def startRun (s : State) : State :=
  let r := placeRecord (.restart s.mgmt.jobClock s.map.station s.map.cause) s
  let s := if r.2 then r.1 else gapRestart r.1.map.station r.1
  let s := { s with map := { s.map with cause := .restarted } }
  { s with map := { s.map with row := some (newRow s.map s.map.highWater) } }

/-- The Mat Map Unit takes a hub mode report (R148, R149, R156). -/
def mapMode (new : HubMode) (s : State) : State :=
  let s := { s with map := { s.map with hubMode := new } }
  match new with
  | .run => startRun s
  | .faultstop => { s with map := { s.map with
      cause := .resumed
      row := s.map.row.map fun r => { r with flags := setFlag r.flags .faultstop } } }
  | .config => closeGap { s with map := { s.map with row := none } }

end Sys2Proof.Machine
end

