-- ==== Sys2Proof/Machine/Travelling.lean ====
section
/-! DEFINITION. The Travel and Geometry Unit's operations (chapter 3): station, motion state, and the
widths with the active column range. -/

namespace Sys2Proof.Machine

/-! ### Station (3.2) -/

/-- A station report to the Levelling Controller and the Mat Map Unit (R33, R34). -/
def stationReport (s : State) : State :=
  mapStation s.travel.station s.travel.highWater (levelStation s)

/-- An accepted non-zero delta moves the station (R33). -/
def moveStation (d : Int) (t : Travel) : Travel :=
  let n := clampInt int32Min int32Max (t.station + d)
  { t with station := n, highWater := max t.highWater n }

/-- An update of slot 0 with count `n` (R31, R32). -/
def travelCount (n : Int) (s : State) : State :=
  let t := { s with travel := { s.travel with baseline := some n } }
  match s.travel.baseline with
  | none => t
  | some b =>
    let d := wrap32 (n - b)
    if Config.jumpLimit < d.natAbs then occur .travelJump t
    else if d = 0 then t
    else stationReport { t with travel := moveStation d t.travel }

/-! ### Motion (3.3) -/

/-- Whether a motion state holds the travel right (R94). -/
def travelRights : Motion → Bool
  | .forward | .reverse => true
  | .stopped | .parked => false

/-- A motion report to its five receivers (R37). -/
def motionReport (new : Motion) (s : State) : State :=
  let s := levelMotion new (reviewAll s)
  let s := reportVoter (fun v => { v with travelRight := travelRights new }) (feedMotion new s)
  mapMotion new s

/-- The motion state takes a new value; the park timer starts on entry into STOPPED and is stopped in
the other states (R35, R36). -/
def enterMotion (new : Motion) (s : State) : State :=
  motionReport new { s with travel := { s.travel with
    motion := new
    park := if new = .stopped then some (s.travel.params.parkTime * 1000) else none } }

/-- The class of a speed against the stop speed (R35). -/
def speedClass (stop : Nat) (v : Int) : Motion :=
  if (stop : Int) < v then .forward else if v < -(stop : Int) then .reverse else .stopped

/-- A class applied to the motion state (R35). -/
def applyClass (c : Motion) (s : State) : State :=
  if c = s.travel.motion then s
  else if c = .stopped ∧ s.travel.motion = .parked then s
  else enterMotion c s

/-- A speed report to the Engine Speed Voter (R37). -/
def speedReport (v : Nat) (s : State) : State :=
  reportVoter (fun x => { x with travelInput := v }) s

/-- An update of slot 1 (R35, R37). -/
def travelSpeed (v : Int) (s : State) : State :=
  applyClass (speedClass s.travel.params.stopSpeed v) (speedReport v.natAbs s)

/-- A STALE report of slot 1 (R35, R37). -/
def travelSpeedStale (s : State) : State := applyClass .stopped (speedReport 0 s)

/-! ### Widths (3.4) -/

/-- The first active column for a left half width (R38). -/
def colLow (half : Nat) : Nat := 32 - ceilDiv half 200

/-- The last active column for a right half width (R38). -/
def colHigh (half : Nat) : Nat := min 63 (31 + ceilDiv half 200)

/-- The widths and the active column range from the base width and the held extensions (R38). -/
def withWidths (t : Travel) : Travel :=
  let l := t.params.baseWidth / 2 + t.heldLeft
  let r := t.params.baseWidth / 2 + t.heldRight
  { t with leftHalf := l, rightHalf := r, cLo := colLow l, cHi := colHigh r }

/-- A geometry report to its three receivers (R38). -/
def geometryReport (s : State) : State :=
  let t := s.travel
  mapGeometry t.cLo t.cHi (feedGeometry t.leftHalf t.rightHalf (t.params.baseWidth / 2) (reviewAll s))

/-- The widths are computed again, and a change is reported (R38). -/
def recomputeGeometry (s : State) : State :=
  let t := withWidths s.travel
  if t = s.travel then s else geometryReport { s with travel := t }

/-- An update of slot 7 or 8 (R38). -/
def extension (d : Side) (v : Int) (s : State) : State :=
  recomputeGeometry { s with travel := match d with
    | .left => { s.travel with heldLeft := v.toNat }
    | .right => { s.travel with heldRight := v.toNat } }

/-- A write of the travel parameters (R30). -/
def travelWritten (p : TravelParams) (s : State) : State :=
  recomputeGeometry { s with travel := { s.travel with params := p } }

end Sys2Proof.Machine
end

