-- ==== Sys2Proof/Machine/Slots.lean ====
section
/-! DEFINITION. The Intake Unit's operations (chapter 2): the application of entries to a SENSE frame,
scaling, the slot write with its update, staleness and SLOT_STALE. -/

namespace Sys2Proof.Machine

/-- The role limits of slots 1 to 8 (2.1). -/
def roleLimits : Nat → Int × Int
  | 1 => (-3000, 3000)
  | 2 | 3 => (-5000, 5000)
  | 4 => (-1500, 1500)
  | 5 | 6 => (0, 600)
  | _ => (0, 4000)

/-- The raw value that an entry reads from a payload, where it is present (R22). -/
def rawValue (e : IntakeEntry) (payload : List Byte) : Option Int :=
  if payload.length < e.offset + e.width then none
  else
    let n := numberOf ((payload.drop e.offset).take e.width)
    some (if e.signed && 2 ^ (8 * e.width - 1) ≤ n then (n : Int) - (2 ^ (8 * e.width) : Nat) else n)

/-- The scaled value (R23). -/
def scaleRaw (e : IntakeEntry) (raw : Int) : Int := roundDiv (raw * e.mult) e.divisor + e.add

/-- A scaled value brought into its slot's role, with its quality (R24). -/
def intoRole (slot : Nat) (v : Int) : Int × Quality :=
  if slot = 0 then (wrap32 v, .good)
  else
    let c := clampInt (roleLimits slot).1 (roleLimits slot).2 v
    (c, if c = v then .good else .clamped)

/-- Whether a slot is in use (R27). -/
def inUse (entries : Vector IntakeRec 24) (slot : Nat) : Bool :=
  entries.toList.any fun r => r.entry.valid && r.entry.slot == slot

/-- Whether a slot in use is STALE (R27). -/
def anyStaleInUse (x : Intake) : Bool :=
  (List.finRange 9).any fun i => x.slots[i].quality == .stale && inUse x.entries i.val

/-- SLOT_STALE is re-evaluated (R27). -/
def evalSlotStale (s : State) : State := setLevelKind .slotStale (anyStaleInUse s.intake) s

/-- A slot's consumer is told of an update (R25, 2.1). -/
def tellUpdate (slot : Nat) (v : Int) (q : Quality) (s : State) : State :=
  match slot with
  | 0 => travelCount v s
  | 1 => travelSpeed v s
  | 2 | 3 | 4 => bothSides (levelUpdate slot v q) s
  | 5 => feedUpdate .left v.toNat s
  | 6 => feedUpdate .right v.toNat s
  | 7 => extension .left v s
  | _ => extension .right v s

/-- A slot's consumer is told that it is STALE (R26, R31, R35, R38, R109, R129). -/
def tellStale (slot : Nat) (s : State) : State :=
  match slot with
  | 1 => travelSpeedStale s
  | 2 | 3 | 4 => bothSides (levelStale slot) s
  | 5 => feedStale .left s
  | 6 => feedStale .right s
  | _ => s

/-- A value is written to a slot by entry `i` (R25). -/
def writeSlot (i : Fin 24) (e : IntakeEntry) (v : Int) (q : Quality) (x : Intake) : Intake :=
  { entries := upd x.entries i fun r => { r with applied := satInc r.applied }
    slots := upd x.slots (ix 8 e.slot) fun _ => ⟨v, q, 0, e.limit, some i.val⟩ }

/-- Entry `i` is applied to a payload (R22 to R25). -/
def applyEntry (payload : List Byte) (s : State) (i : Fin 24) : State :=
  let e := s.intake.entries[i].entry
  match rawValue e payload with
  | none => occur .senseMalformed s
  | some raw =>
    let r := intoRole e.slot (scaleRaw e raw)
    evalSlotStale (tellUpdate e.slot r.1 r.2 { s with intake := writeSlot i e r.1 r.2 s.intake })

/-- Whether a valid entry reads a frame (R21). -/
def readsFrame (e : IntakeEntry) (src chan : Nat) : Bool :=
  e.valid && e.node == src && e.chan == chan

/-- A SENSE frame is offered to the Intake Unit: its matching entries are applied by rising index, as R21
says of those that write one slot; for those that write different slots it is DESIGN CHOICE, log entry
70. -/
def senseOffered (f : Frame) (s : State) : State :=
  (List.finRange 24).foldl (fun s i =>
    if readsFrame s.intake.entries[i].entry f.src f.chan then applyEntry (payloadOf f) s i else s) s

/-- A slot reaches its staleness limit (R26): the quality becomes STALE.  Where the command comes early, the
age is put at the limit: DESIGN CHOICE, log entry 19. -/
def slotExpires (i : Fin 9) (s : State) : State :=
  evalSlotStale (tellStale i.val { s with intake := { s.intake with
    slots := upd s.intake.slots i fun x => { x with quality := .stale, age := x.limit } } })

/-- Whether a slot ages toward STALE. -/
def fresh (q : Quality) : Bool :=
  match q with
  | .good | .clamped => true
  | .empty | .stale => false

end Sys2Proof.Machine
end

