-- ==== Sys2Proof/Machine/Sweep.lean ====
section
/-! DEFINITION. The Resistance Measurement Unit's operations (chapter 4): the sweep, the reference
count, conversion, plausibility and retry, and line health. -/

namespace Sys2Proof.Machine

/-! ### The sweep (R45) -/

/-- The limit of a count (R47). -/
def countLimitTimer : CountMode → Timer
  | .window => none
  | .period => some Config.periodLimit

/-- The gate of a count (R46). -/
def countGate (e : ReferenceEntry) : Timer :=
  match e.mode with
  | .window => some e.gate
  | .period => none

/-- A count begins: in WINDOW mode its gate opens, in PERIOD mode its limit starts (R46, R47). -/
def beginCount (line place : Nat) (phase : CountPhase) (first : Option Reading) (r : Rmu) : Rmu :=
  { r with
    counting := some ⟨line, place, phase, first, countLimitTimer r.ref.mode⟩
    gate := countGate r.ref
    counts := r.counts + 1 }

/-- No count runs (R45). -/
def abandonCount (r : Rmu) : Rmu := { r with counting := none, gate := none }

/-- The end of the running count as a command, with what its gate has counted (R46 to R49, R54).  The
number of edges is a free value: DESIGN CHOICE, log entry 57. -/
def gateEnds (mark : Nat) (r : Rmu) : List Instr :=
  match r.counting with
  | none => []
  | some c =>
    let n := Config.edgesCounted mark r.counts c.line
    if c.line = 0 then [.referenceCountEnds n]
    else match c.phase with
      | .first => [.firstCountEnds n]
      | .retry => [.retryCountEnds n]

/-- A new sweep begins at line 0, or with an empty list the unit goes idle (R45). -/
def startSweep (s : State) : State :=
  if s.rmu.sweepList = [] then
    setLevelKind .refFail false
      { s with rmu := { abandonCount s.rmu with sweepRef := none, heldRef := none, refAge := 0 } }
  else { s with rmu := beginCount 0 0 .first none s.rmu }

/-- The count of the listed line at a place begins, or, past the list's end, a new sweep (R45). -/
def countPlace (place : Nat) (s : State) : State :=
  match s.rmu.sweepList[place]? with
  | some line => { s with rmu := beginCount line place .first none s.rmu }
  | none => startSweep s

/-! ### The reference (R48, R49) -/

/-- A reference count ends. -/
def referenceEnds (n : Nat) (s : State) : State :=
  let r := { s.rmu with lastRef := some n }
  if r.ref.refLo ≤ n ∧ n ≤ r.ref.refHi then
    countPlace 0 (setLevelKind .refFail false
      { s with rmu := { r with heldRef := some n, refAge := 0, sweepRef := some n } })
  else
    let age := min (r.refAge + 1) 4
    if r.heldRef.isSome ∧ age < 4 then
      countPlace 0 { s with rmu := { r with refAge := age, sweepRef := r.heldRef } }
    else
      countPlace 0 (setLevelKind .refFail true
        { s with rmu := { r with refAge := age, sweepRef := none } })

/-! ### Conversion (4.6) -/

/-- Stage 1: the cause that a count at the counter's limits gives (R50). -/
def countLimit (m : CountMode) (n : Nat) : Option LineCause :=
  match m with
  | .window => if n = 0 then some .opened else if 65535 ≤ n then some .short else none
  | .period => if n = 0 then some .short else if 65535 ≤ n then some .opened else none

/-- Stage 2: the resistance (R51). -/
def resistance (m : CountMode) (rRef nRef n : Nat) : Nat :=
  match m with
  | .window => (rRef * nRef + n / 2) / n
  | .period => (rRef * n + nRef / 2) / nRef

/-- Stages 3 and 4: the temperature with its CLAMPED mark (R52). -/
def temperature (e : SensorEntry) (rx : Nat) : Int × Bool :=
  let t := roundDiv (((rx : Int) - e.r0) * 100) e.sens
  let c := clampInt (-400) 3000 t
  (c, c != t)

/-- A count converted: its reading, and the resistance where there is one (R50 to R52). -/
def convert (ref : ReferenceEntry) (e : SensorEntry) (nRef n : Nat) : Reading × Option Nat :=
  match countLimit ref.mode n with
  | some c => (.fails c, none)
  | none =>
    let rx := resistance ref.mode ref.rRef nRef n
    if e.opened < rx then (.fails .opened, some rx)
    else if rx < e.short then (.fails .short, some rx)
    else (.temp (temperature e rx).1 (temperature e rx).2, some rx)

/-! ### Plausibility (4.7) and health (4.8) -/

/-- The result of a measurement (4.1). -/
inductive LineResult | accepted (t : Int) (clamped : Bool) | failed (c : LineCause)
  deriving DecidableEq, Repr

/-- A reading tested on its own (R53). -/
def testReading (jump : Nat) (last : Option Int) : Reading → LineResult
  | .fails c => .failed c
  | .temp t clamped =>
    match last with
    | some l => if jump < (t - l).natAbs then .failed .jump else .accepted t clamped
    | none => .accepted t clamped

/-- The result that a retry decides (R54). -/
def testRetry (jump : Nat) (last : Option Int) (r1 : Option Reading) (r2 : Reading) : LineResult :=
  match testReading jump last r2, r1, r2 with
  | .failed .jump, some (.temp t1 _), .temp t2 clamped =>
    if (t2 - t1).natAbs ≤ jump then .accepted t2 clamped else .failed .jump
  | x, _, _ => x

/-- A line after an ACCEPTED result (R55, R56). -/
def lineAccepted (t : Int) (clamped : Bool) (v : LineVars) : LineVars :=
  let v := { v with
    faults := 0
    lastAccepted := some t
    lastResult := some (if clamped then .acceptedClamped else .accepted) }
  if v.state = .failed then
    if 7 ≤ v.recovery then { v with state := .good, recovery := 0 }
    else { v with recovery := v.recovery + 1 }
  else { v with state := .good }

/-- A line after a FAILED result (R57). -/
def lineFails (c : LineCause) (v : LineVars) : LineVars :=
  let n := min (v.faults + 1) 255
  let v := { v with faults := n, lastResult := some (.failed c) }
  if v.state = .failed then { v with recovery := 0 }
  else if n < 3 then { v with state := .suspect }
  else { v with state := .failed, recovery := 0 }

/-- LINE_FAILED is re-evaluated (R58). -/
def evalLineFailed (s : State) : State :=
  setLevelKind .lineFailed (s.rmu.lines.toList.any (·.vars.state == .failed)) s

/-- The state with one line's state changed. -/
def modLine (s : State) (line : Nat) (f : LineVars → LineVars) : State :=
  { s with rmu := { s.rmu with lines := upd s.rmu.lines (lineIx line) fun x =>
    { x with vars := f x.vars } } }

/-- A measurement ends: the result is applied to the line and reported to its zones, and the sweep
goes on (R55 to R58, R60, R45). -/
def measurementEnds (c : Counting) (res : LineResult) (s : State) : State :=
  match res with
  | .accepted t clamped => countPlace (c.place + 1)
      (lineReport c.line (some (t, clamped)) (evalLineFailed (modLine s c.line (lineAccepted t clamped))))
  | .failed cause => countPlace (c.place + 1)
      (lineReport c.line none (evalLineFailed (modLine s c.line (lineFails cause))))

/-- A sensor line's count is recorded, and converted where the sweep has a reference (R49 to R52). -/
def recordCount (c : Counting) (n : Nat) (s : State) : State × Option Reading :=
  match s.rmu.sweepRef with
  | none => (modLine s c.line fun v =>
      { v with lastRaw := some n, lastResult := some .noReference }, none)
  | some nRef =>
    let r := convert s.rmu.ref s.rmu.lines[lineIx c.line].entry nRef n
    (modLine s c.line fun v => { v with lastRaw := some n, lastResistance := r.2 }, some r.1)

/-- A first count ends (R49, R53). -/
def firstEnds (c : Counting) (n : Nat) (s : State) : State :=
  let r := recordCount c n s
  let x := s.rmu.lines[lineIx c.line]
  match r.2 with
  | none => countPlace (c.place + 1) r.1
  | some reading =>
    match testReading x.entry.jump x.vars.lastAccepted reading with
    | .accepted t clamped => measurementEnds c (.accepted t clamped) r.1
    | .failed _ => { r.1 with rmu := beginCount c.line c.place .retry (some reading) r.1.rmu }

/-- A retry count ends (R54). -/
def retryEnds (c : Counting) (n : Nat) (s : State) : State :=
  let r := recordCount c n s
  let x := s.rmu.lines[lineIx c.line]
  match r.2 with
  | none => countPlace (c.place + 1) r.1
  | some reading =>
    measurementEnds c (testRetry x.entry.jump x.vars.lastAccepted c.firstReading reading) r.1

/-- The running count ends with a value (R48, R53, R54). -/
def countEnds (c : Counting) (n : Nat) (s : State) : State :=
  if c.line = 0 then referenceEnds n s
  else match c.phase with
    | .first => firstEnds c n s
    | .retry => retryEnds c n s

/-- A FAILED line is cleared (R59). -/
def clearFailedLine (line : Nat) (s : State) : State :=
  if isLineFailed s line then
    lineReport line none (evalLineFailed (modLine s line fun v =>
      { v with state := .unknown, faults := 0, recovery := 0, lastAccepted := none }))
  else s

/-- The effects of an accepted write of a sensor entry (R42). -/
def sensorWritten (line : Nat) (e : SensorEntry) (s : State) : State :=
  { s with rmu := { s.rmu with lines := upd s.rmu.lines (lineIx line) fun x =>
    ⟨e, { x.vars with lastAccepted := none }⟩ } }

/-- The effects of an accepted write of the reference entry (R43). -/
def referenceWritten (e : ReferenceEntry) (s : State) : State :=
  let old := s.rmu.ref
  let t := { s with rmu := { s.rmu with ref := e } }
  if e.mode = old.mode ∧ e.gate = old.gate ∧ e.periods = old.periods then t
  else startSweep { t with rmu := { abandonCount t.rmu with heldRef := none, refAge := 0 } }

/-- The effects of an accepted write of the sweep list (R44). -/
def sweepWritten (l : List Nat) (s : State) : State :=
  startSweep { s with rmu := { abandonCount s.rmu with sweepList := l } }

end Sys2Proof.Machine
end

