-- ==== Sys2Proof/Machine/ArchiveOps.lean ====
section
/-! DEFINITION. The Archive Controller's operations (chapter 11): the slot layout, the flash, taking and
programming records, sectors and erase-ahead, the scan, fetches, the format and record notices. -/

namespace Sys2Proof.Machine

/-! ### The slot layout (11.2) -/

/-- The number of a restart cause. -/
def causeNum : RestartCause → Nat
  | .powerOn => 0
  | .controlReset => 1
  | .resumed => 2
  | .restarted => 3

/-- The kind byte of a record. -/
def kindOf : Record → Nat
  | .row _ => 0
  | .gap _ => 1
  | .restart _ _ _ => 2
  | .mark _ _ _ => 3

/-- A record's job clock and station, bytes 5 to 12. -/
def stampOf : Record → Nat × Int
  | .row r => (r.clock, r.station)
  | .gap g => (g.clock, g.first)
  | .restart clock station _ => (clock, station)
  | .mark clock station _ => (clock, station)

/-- Bytes 13 to 36 of a ROW record. -/
def rowBytes (r : RowRecord) : List Byte :=
  bytesOf 2 r.pitch ++ bytesOf 1 r.colLo ++ bytesOf 1 r.colHi ++ bytesOf 1 r.valid ++
    bytesOf 1 r.cold ++ bytesOf 1 r.min ++ bytesOf 1 r.max ++ bytesOf 1 r.mean ++
    bytesOf 2 r.flags.toNat ++ bytesOf 1 r.runCount ++
    ((r.runs ++ List.replicate 6 (0, 0)).take 6).flatMap fun (x : Nat × Nat) => bytesOf 1 x.1 ++ bytesOf 1 x.2

/-- The number of a gap's reason. -/
def reasonNum : GapReason → Nat
  | .queueFull => 0
  | .skipped => 1

/-- Bytes 13 to 36 of a record. -/
def bodyBytes : Record → List Byte
  | .row r => rowBytes r
  | .gap g => bytesOf 4 (unsignedOf 4 g.last) ++ bytesOf 4 g.rows ++ bytesOf 1 (reasonNum g.reason) ++
      bytesOf 1 (if g.restart then 1 else 0) ++ List.replicate 14 0
  | .restart _ _ cause => bytesOf 1 (causeNum cause) ++ List.replicate 23 0
  | .mark _ _ code => bytesOf 2 code ++ List.replicate 22 0

/-- The wire form of a record: bytes 0 to 36 of its slot. -/
def wireForm (n : Nat) (r : Record) : List Byte :=
  bytesOf 1 (kindOf r) ++ bytesOf 4 n ++ bytesOf 4 (stampOf r).1 ++
    bytesOf 4 (unsignedOf 4 (stampOf r).2) ++ bodyBytes r

/-- The 64 bytes of a record's slot. -/
def slotImage (n : Nat) (r : Record) : List Byte :=
  let covered := wireForm n r ++ List.replicate 25 0
  covered ++ crcBytes covered

/-- Whether a slot's bytes are all 255 (11.2). -/
def slotErased (l : List Byte) : Bool := l.all (· == 255)

/-- Whether a slot's bytes are valid: a kind of 0 to 3 and a matching CRC (11.2). -/
def slotValid (l : List Byte) : Bool :=
  decide (numberOf (l.take 1) ≤ 3) && crcBytes (l.take 62) == l.drop 62

/-- The record number in a slot's bytes. -/
def slotNumber (l : List Byte) : Nat := numberOf ((l.drop 1).take 4)

/-! ### The flash (11.1) -/

/-- The mark of a 64-byte place, where an operation left it open. -/
def markAt (l : List (Nat × Nat)) (place : Nat) : Option Nat := (l.find? (·.1 == place)).map (·.2)

/-- The byte held at an address; an unlisted address holds 255. -/
def cellAt (l : List Host.Cell) (a : Nat) : Byte := ((l.find? (·.1 == a)).map (·.2)).getD 255

/-- One byte read from the flash: an open place reads as a free value. -/
def readByte (f : Flash) (a : Nat) : Byte :=
  match markAt f.unsettled (a / 64) with
  | some m => Config.unsettledByte m a
  | none => cellAt f.cells a

/-- The 64 bytes of a place. -/
def readPlace (f : Flash) (place : Nat) : List Byte :=
  (List.range 64).map fun i => readByte f (64 * place + i)

/-- A value put under a key of a list that rises by its keys. -/
def putKey {α : Type} (k : Nat) (x : α) : List (Nat × α) → List (Nat × α)
  | [] => [(k, x)]
  | y :: ys => if k < y.1 then (k, x) :: y :: ys else if k = y.1 then (k, x) :: ys else y :: putKey k x ys

/-- A byte put at an address; 255 removes the entry. -/
def putByte (l : List Host.Cell) (a : Nat) (b : Byte) : List Host.Cell :=
  if b = 255 then l.filter (·.1 != a) else putKey a b l

/-- Bytes put at consecutive addresses. -/
def putBytes (l : List Host.Cell) (a : Nat) : List Byte → List Host.Cell
  | [] => l
  | b :: bs => putBytes (putByte l a b) (a + 1) bs

/-- A page program completes on one place. -/
def programPlace (f : Flash) (place : Nat) (l : List Byte) : Flash :=
  { cells := putBytes f.cells (64 * place) (l.take 64)
    unsettled := f.unsettled.filter (·.1 != place) }

/-- A place is left open by an operation. -/
def unsettle (mark : Nat) (f : Flash) (place : Nat) : Flash :=
  { cells := f.cells.filter (fun c => c.1 / 64 != place)
    unsettled := putKey place mark f.unsettled }

/-- A flash sector is left open by an erase that has begun. -/
def unsettleSector (mark : Nat) (f : Flash) (sector : Nat) : Flash :=
  (List.range 64).foldl (fun f i => unsettle mark f (64 * sector + i)) f

/-- A flash sector's erase completes. -/
def eraseSector (f : Flash) (sector : Nat) : Flash :=
  { cells := f.cells.filter (fun c => c.1 / 4096 != sector)
    unsettled := f.unsettled.filter (fun c => c.1 / 64 != sector) }

/-! ### The directory -/

/-- Whether a range is usable (11.1). -/
def usableRange (first count size : Nat) : Bool := count != 0 && first + count ≤ size

/-- Whether the stored range is usable. -/
def storedUsable (e : ArchiveEntry) : Bool := usableRange e.first e.count e.size

/-- The sector after a range sector of the ring. -/
def nextSector (a : Archive) (k : Nat) : Nat := if k + 1 < a.count then k + 1 else 0

/-- The directory entry of a range sector. -/
def lowOf (a : Archive) (j : Nat) : Option Nat := (a.sectors[j]?).bind (·.low)

/-- Whether a range sector is ready. -/
def isReady (a : Archive) (j : Nat) : Bool := (a.sectors[j]?).any (·.ready)

/-- The archive with one sector changed. -/
def modSector (a : Archive) (j : Nat) (f : Sector → Sector) : Archive :=
  { a with sectors := a.sectors.modify j f }

/-- The lowest of the directory's entries, or none (R165). -/
def lowest (l : List Sector) : Option Nat := (l.filterMap (·.low)).min?

/-- The place of a slot of a range sector. -/
def placeOf (a : Archive) (sector slot : Nat) : Nat := 64 * (a.first + sector) + slot

/-- The places and images of the page buffer's records (R162). -/
def bufferImages (a : Archive) : List (Nat × List Byte) :=
  match a.write with
  | .at k w => a.buffer.mapIdx fun i x => (placeOf a k (w + i), slotImage x.1 x.2)
  | _ => []

/-- A record number raised by one; past the layout's last number it is free. -/
def nextNumberOf (n : Nat) : Nat := if n < 4294967295 then n + 1 else Config.numberAfterLast

/-- The state with the archive changed. -/
def modArchive (s : State) (f : Archive → Archive) : State := { s with archive := f s.archive }

/-! ### States and sectors (R163 to R166) -/

/-- ARCHIVE_FAIL and ARCHIVE_FULL are re-evaluated from the archive state (R166). -/
def evalArchiveKinds (s : State) : State :=
  setLevelKind .archiveFull (s.archive.state == .full)
    (setLevelKind .archiveFail (s.archive.state == .failed) s)

/-- The page buffer is given up and its records counted as lost (R163, R164). -/
def loseBuffer (a : Archive) : Archive :=
  { a with
    lost := satAdd a.lost a.buffer.length
    buffer := []
    flush := none
    programDue := false }

/-- The flash sector in which an erase is running or suspended. -/
def erasingSector (a : Archive) : Option Nat :=
  match a.erase with
  | .idle => a.left
  | .erasing k _ => some (a.first + k)
  | .suspended k _ => some (a.first + k)

/-- Entry into FAILED (R163). -/
def enterFailed (s : State) : State :=
  evalArchiveKinds (modArchive s fun a =>
    { loseBuffer a with
      state := .failed
      program := none
      eraseDue := none
      erase := .idle
      eraseTimer := none
      format := .none
      left := erasingSector a })

/-- Erase-ahead is decided for the sector after `k` (R164). -/
def decideNext (k : Nat) (a : Archive) : Archive :=
  let j := nextSector a k
  if lowOf a j = none ∨ a.stored.policy = .wrap then { a with eraseDue := some j }
  else { a with held := some j }

/-- The write position enters a sector; records waiting in the buffer fall due at once (R163,
R164).  That those of a failed program fall due only now is DESIGN CHOICE, log entry 89. -/
def enterSector (k : Nat) (a : Archive) : Archive :=
  decideNext k { a with write := .at k 0, programDue := a.buffer != [] }

/-- Whether the write position can enter a range sector: it is ready (R164), and no erase of it is decided
and still to begin.  The second is DEDUCED, log entry 78. -/
def canEnter (a : Archive) (j : Nat) : Bool := isReady a j && a.eraseDue != some j

/-- The last page of sector `k` has been programmed or abandoned (R164).  Where the write position has to wait,
the program of a failed page's records is not due until the next sector is entered, although R163 has it fall due
at once: DESIGN CHOICE, log entry 89. -/
def endSector (k : Nat) (s : State) : State :=
  let j := nextSector s.archive k
  if s.archive.held = some j then
    match s.archive.stored.policy with
    | .wrap => modArchive s fun a => { a with eraseDue := some j, held := none, write := .waiting j }
    | .halt => evalArchiveKinds (modArchive s fun a =>
        { loseBuffer a with state := .full, write := .waiting j })
  else if canEnter s.archive j then modArchive s (enterSector j)
  else modArchive s fun a => { a with write := .waiting j }

/-- The write position moves to a slot of sector `k`, or past its end (R162, R163). -/
def advanceTo (k slot : Nat) (s : State) : State :=
  if 64 ≤ slot then endSector k s
  else modArchive s fun a => { a with write := .at k slot, programDue := a.buffer != [] }

/-! ### Suspending and resuming (R165) -/

/-- Whether work can be served beside the erase-ahead state: by suspending, or in a suspension that
stands. -/
def canSuspend : EraseAhead → Bool
  | .erasing _ n => n < Config.maxSuspends
  | .idle | .suspended _ _ => true

/-- The erase-ahead state while work is served. -/
def suspendErase : EraseAhead → EraseAhead
  | .erasing k n => .suspended k (n + 1)
  | x => x

/-- The erase-ahead state after that work. -/
def resumeErase : EraseAhead → EraseAhead
  | .suspended k n => .erasing k n
  | x => x

/-- Whether a fetch has begun reading and has not ended: it holds the port and the suspension
(R169). -/
def fetchHolds (m : Mgmt) : Bool :=
  match m.request with
  | some r =>
    match r.kind with
    | .fetch f => f.begun && !f.final
    | _ => false
  | none => false

/-- A suspended erase is resumed, unless a fetch still holds it (R162, R163).  DEDUCED, log entry 35. -/
def resumeAfterProgram (s : State) : State :=
  if fetchHolds s.mgmt then s else modArchive s fun a => { a with erase := resumeErase a.erase }

/-! ### Records (R161, R162, R163) -/

/-- Whether a record can be taken (R161). -/
def canTake (a : Archive) (queue : List Record) : Bool :=
  match a.write with
  | .at _ w => a.state == .normal && decide (w % 4 + a.buffer.length < 4) && a.program.isNone &&
      queue != []
  | _ => false

/-- The head record of the queue is taken (R161). -/
def takeRecord (s : State) : State :=
  match s.map.queue, s.archive.write with
  | r :: rest, .at _ w =>
    modArchive { s with map := { s.map with queue := rest } } fun a =>
      { a with
        buffer := a.buffer ++ [(a.nextNumber, r)]
        nextNumber := nextNumberOf a.nextNumber
        flush := if a.buffer = [] then some Config.flushTime else a.flush
        programDue := a.programDue || w % 4 + a.buffer.length = 3 }
  | _, _ => s

/-- Whether a due program can be issued (R162, R165, R169). -/
def canProgram (s : State) : Bool :=
  let a := s.archive
  a.state == .normal && a.programDue && a.program.isNone && canSuspend a.erase && !fetchHolds s.mgmt

/-- A due program is issued (R162). -/
def issueProgram (a : Archive) : Archive :=
  { a with
    programDue := false
    flush := none
    program := some Config.programTime
    erase := suspendErase a.erase }

/-- A record notice is offered; one that is refused is skipped (R171).  A skipped one has used up its notice
count: DESIGN CHOICE, log entry 76. -/
def recordNotice (s : State) (x : Nat × Record) : State :=
  let f : Frame := ⟨.notice, false, s.log.noticeCount, 0, s.bridge.consoleNode, s.bridge.ownNode, 200,
    .bytes (wireForm x.1 x.2)⟩
  let r := offerOwn s.bridge f
  { s with
    bridge := r.1
    log := { s.log with noticeCount := (s.log.noticeCount + 1) % 16 }
    archive := if r.2 = .refused then { s.archive with skipped := satInc s.archive.skipped }
      else s.archive }

/-- The directory and the numbers after the buffer's records are programmed in sector `k` (R162). -/
def recordProgrammed (k : Nat) (a : Archive) : Archive :=
  let low := (a.buffer.map (·.1)).min?
  let a := modSector a k fun x => { x with low := if x.low = none then low else x.low }
  { a with
    oldest := if a.oldest = none then low else a.oldest
    newest := (a.buffer.map (·.1)).max?.or a.newest
    buffer := []
    failures := 0
    program := none }

/-- A page program completes: its effects come in the order of R162's list, DESIGN CHOICE, log entry 79.
That the flash changes now is DESIGN CHOICE, log entry 41. -/
def programCompletes (s : State) : State :=
  match s.archive.write with
  | .at k w =>
    let records := s.archive.buffer
    let s := { s with
      flash := (bufferImages s.archive).foldl (fun f x => programPlace f x.1 x.2) s.flash
      archive := recordProgrammed k s.archive }
    let s := if s.archive.stored.streaming then records.foldl recordNotice s else s
    advanceTo k (w + records.length) (resumeAfterProgram s)
  | _ => s

/-- The write position after a failed program: slot 0 of the next page, or of the next sector (R163). -/
def abandonPage (k w : Nat) (s : State) : State := advanceTo k (4 * (w / 4 + 1)) s

/-- A page program fails (R163).  At the third failure the write position moves too, and the archive goes to
FAILED with no FULL on the way: DESIGN CHOICE, log entry 77. -/
def programFails (s : State) : State :=
  match s.archive.write with
  | .at k w =>
    let s := { s with
      flash := (bufferImages s.archive).foldl (fun f x => unsettle s.marks f x.1) s.flash
      marks := s.marks + 1
      archive := { s.archive with program := none, failures := s.archive.failures + 1 } }
    if Config.maxFailures ≤ s.archive.failures then
      enterFailed { s with archive := (abandonPage k w s).archive }
    else abandonPage k w (resumeAfterProgram s)
  | _ => s

/-! ### Erasing (R165, R170) -/

/-- Whether a decided erase can be issued (R165). -/
def canErase (s : State) : Bool :=
  let a := s.archive
  a.eraseDue.isSome && a.program.isNone && !a.programDue && !fetchHolds s.mgmt

/-- The erase of range sector `j` is issued (R165).  The open bytes are DESIGN CHOICE, log entry 42. -/
def issueErase (j : Nat) (s : State) : State :=
  modArchive { s with
    flash := unsettleSector s.marks s.flash (s.archive.first + j)
    marks := s.marks + 1 } fun a =>
      let a := modSector a j fun _ => ⟨none, false⟩
      { a with
        oldest := lowest a.sectors
        newest := if lowest a.sectors = none then none else a.newest
        eraseDue := none
        erase := .erasing j 0
        eraseTimer := some Config.eraseTime }

/-- The format's end (R170). -/
def formatEnds (s : State) : State :=
  evalArchiveKinds (modArchive s fun a => enterSector 0
    { a with
      state := .normal
      nextNumber := 1
      oldest := none
      newest := none
      failures := 0
      format := .none })

/-- The format erases range sector 0 next (R170). -/
def formatBegins (a : Archive) : Archive :=
  { a with format := .erasing, eraseDue := some 0, eraseTimer := none, left := none }

/-- An erase completes (R165, R170). -/
def eraseCompletes (s : State) : State :=
  match s.archive.format, s.archive.left, s.archive.erase with
  | .waiting, some sector, _ =>
    modArchive { s with flash := eraseSector s.flash sector } formatBegins
  | phase, _, .erasing j _ =>
    let s := modArchive { s with flash := eraseSector s.flash (s.archive.first + j) } fun a =>
      { modSector a j (fun x => { x with ready := true }) with
        erase := .idle
        eraseTimer := none
        failures := 0 }
    if phase = .erasing then
      if j + 1 < s.archive.count then modArchive s fun a => { a with eraseDue := some (j + 1) }
      else formatEnds s
    else if s.archive.write = .waiting j then modArchive s (enterSector j)
    else s
  | _, _, _ => s

/-- An erase runs out its timer (R165, R170).  That the erase-ahead state reads NONE until the same erase is
issued again is DESIGN CHOICE, log entry 82. -/
def eraseFails (s : State) : State :=
  let s1 := modArchive s fun a => { a with failures := a.failures + 1 }
  if s.archive.format = .waiting then modArchive s1 formatBegins
  else match s.archive.erase with
    | .erasing j _ =>
      if Config.maxFailures ≤ s1.archive.failures then enterFailed s1
      else modArchive s1 fun a => { a with erase := .idle, eraseTimer := none, eraseDue := some j }
    | _ => s

/-! ### The power-on scan (R167, R168) -/

/-- What a scan finds in a slot: its record number, or its standing as dirty or erased. -/
inductive Found | record (n : Nat) | dirty | erased
  deriving DecidableEq, Repr

/-- What a scan finds in a place. -/
def scanPlace (f : Flash) (place : Nat) : Found :=
  let l := readPlace f place
  if slotErased l then .erased else if slotValid l then .record (slotNumber l) else .dirty

/-- What a scan finds in the 64 slots of a flash sector. -/
def scanSector (f : Flash) (sector : Nat) : List Found :=
  (List.range 64).map fun i => scanPlace f (64 * sector + i)

/-- The record numbers found. -/
def foundNumbers (l : List Found) : List Nat :=
  l.filterMap fun x =>
    match x with
    | .record n => some n
    | _ => none

/-- The write position that a scan places (R168).  A newest number found twice: DESIGN CHOICE, log
entry 43. -/
def placeWrite (count : Nat) (found : List (List Found)) (newest : Option Nat) : WritePos :=
  match newest with
  | none => if (found.headD []).all (· == .erased) then .at 0 0 else .waiting 0
  | some n =>
    let k := count - 1 - found.reverse.findIdx (fun l => l.contains (.record n))
    let slots := found.getD k []
    let w := 64 - slots.reverse.findIdx (· == .record n)
    if w < 64 && (slots.drop w).all (· == .erased) then .at k w
    else .waiting (if k + 1 < count then k + 1 else 0)

/-- A waiting write position's sector is erased, or held, under the policy (R168). -/
def startWaiting (j : Nat) (s : State) : State :=
  if lowOf s.archive j = none ∨ s.archive.stored.policy = .wrap then
    modArchive s fun a => { a with eraseDue := some j }
  else evalArchiveKinds (modArchive s fun a => { a with state := .full, held := some j })

/-- The power-on scan ends (R167, R168). -/
def scanEnds (s : State) : State :=
  let found := (List.range s.archive.count).map fun j => scanSector s.flash (s.archive.first + j)
  let numbers := found.flatMap foundNumbers
  let s := modArchive s fun a =>
    { a with
      state := .normal
      sectors := found.map fun l => ⟨(foundNumbers l).min?, false⟩
      oldest := numbers.min?
      newest := numbers.max?
      nextNumber := match numbers.max? with
        | some n => nextNumberOf n
        | none => 1
      dirty := satAdd 0 (found.countP fun l => l.contains .dirty)
      write := placeWrite a.count found numbers.max? }
  match s.archive.write with
  | .at k _ => modArchive s fun a => decideNext k (modSector a k fun x => { x with ready := true })
  | .waiting j => startWaiting j s
  | .unplaced => s

/-! ### Fetch (R169) -/

/-- The range sector in which a number is looked for: the one whose entry is the highest not above
it. -/
def sectorFor (a : Archive) (m : Nat) : Option Nat :=
  match ((a.sectors.filterMap (·.low)).filter (· ≤ m)).max? with
  | some l => a.sectors.findIdx? (fun x => x.low == some l)
  | none => none

/-- The wire form of the record with a number, where a valid slot carries it. -/
def findRecord (s : State) (m : Nat) : Option (List Byte) :=
  (sectorFor s.archive m).bind fun j =>
    (((List.range 64).map fun i => readPlace s.flash (placeOf s.archive j i)).find? fun l =>
      !slotErased l && slotValid l && slotNumber l == m).map (·.take 37)

/-! ### Format and the archive entry (R160, R170) -/

/-- A format begins (R170).  The numbers none from now on are DEDUCED, log entry 44, and the erase left
in the flash log entry 45; that the erase-ahead state reads NONE while the format waits for that erase is
DESIGN CHOICE, log entry 75. -/
def startFormat (s : State) : State :=
  evalArchiveKinds (modArchive s fun a =>
    let b := { a with
      state := .formatting
      first := a.stored.first
      count := a.stored.count
      size := a.stored.size
      sectors := List.replicate a.stored.count ⟨none, false⟩
      oldest := none
      newest := none
      write := .unplaced
      flush := none
      programDue := false
      erase := .idle
      eraseDue := none
      held := none
      failures := 0 }
    match erasingSector a with
    | some sector => { b with format := .waiting, left := some sector, eraseTimer := some Config.eraseTime }
    | none => formatBegins b)

/-- The effects of an accepted write of the archive entry (R160, R166). -/
def archiveWritten (e : ArchiveEntry) (s : State) : State :=
  let s := modArchive s fun a => { a with stored := e }
  match s.archive.state, e.policy, s.archive.held with
  | .full, .wrap, some j => evalArchiveKinds (modArchive s fun a =>
      { a with state := .normal, eraseDue := some j, held := none, write := .waiting j })
  | _, _, _ => s

end Sys2Proof.Machine
end

