-- ==== Sys2Proof/Machine/Link.lean ====
section
/-! DEFINITION. The Link Bridge's operations (chapter 1): port errors and the port states, syncs, the
filter and the guards, routing, and the admission of waiting own frames. -/

namespace Sys2Proof.Machine

/-- The state with one port changed. -/
def onPort (p : Port) (f : PortRec → PortRec) (s : State) : State :=
  { s with bridge := modPort s.bridge p f }

/-- LINK_x_RETRAIN. -/
def retrainKind : Port → CondKind
  | .A => .linkARetrain
  | .B => .linkBRetrain

/-- LINK_x_DOWN. -/
def downKind : Port → CondKind
  | .A => .linkADown
  | .B => .linkBDown

/-! ### The end of a reply (R174, R175) -/

/-- The request in service after its latest REPLY frame is admitted, dropped or discarded. -/
def replyDone (m : Mgmt) : Mgmt :=
  match m.request with
  | none => m
  | some r =>
    match r.kind with
    | .plain => { m with request := none }
    | .fetch f => if f.final then { m with request := none } else m
    | .reset _ => { m with request := some { r with kind := .reset true } }

/-- The waiting reply is no longer waiting. -/
def releaseReply (m : Mgmt) : Mgmt := replyDone { m with waitingReply := none }

/-! ### RETRAIN (R3, R4) -/

/-- Whether the Management Engine's reply waits for a port. -/
def replyWaits (s : State) (p : Port) : Bool := s.mgmt.waitingReply.any (·.1 == p)

/-- Whether a target's command waits for a port. -/
def commandWaits (p : Port) (x : Target) : Bool := x.waiting.any (·.1 == p)

/-- A target whose command waits for a port takes it as sent (R136). -/
def sendIfWaiting (p : Port) (x : Target) : Target := if commandWaits p x then markSent x else x

/-- The number of own frames that wait for a port. -/
def waitingCount (s : State) (p : Port) : Nat :=
  (if replyWaits s p then 1 else 0) + s.log.waiting.countP (·.2.1 == p) +
    s.disp.targets.toList.countP (commandWaits p)

/-- Own frames waiting for a port are discarded, and their producers treat them as sent (R3, R136,
R174, R181). -/
def discardWaiting (p : Port) (s : State) : State :=
  { s with
    mgmt := if replyWaits s p then releaseReply s.mgmt else s.mgmt
    log := { s.log with waiting := s.log.waiting.filter (·.2.1 != p) }
    disp := { s.disp with targets := s.disp.targets.map (sendIfWaiting p) } }

/-- A retrain attempt begins (R4); its first sync 2 ms later is DEDUCED, log entry 16. -/
def beginAttempt (r : PortRec) : PortRec :=
  { r with attempt := some Config.attemptTime, sync := some Config.syncTime }

/-- A port as it enters RETRAIN, with its `n` waiting own frames counted as discarded (R3).  A sync that still
waits for the line is dropped uncounted: DESIGN CHOICE, log entry 86. -/
def retrainPort (n : Nat) (r : PortRec) : PortRec :=
  let q := discard (depth r + n) r
  beginAttempt { q with
    state := .retrain
    window := 0
    windowTimer := none
    retry := none
    sending := none
    syncs := []
    urgentQ := []
    normalQ := [] }

/-- A port enters RETRAIN (R3). -/
def enterRetrain (p : Port) (s : State) : State :=
  occur (retrainKind p) (discardWaiting p (onPort p (retrainPort (waitingCount s p)) s))

/-! ### Port errors and syncs (R1, R2, R6) -/

/-- A port error acts on the port's state machine (R2). -/
def errorActs (p : Port) (s : State) : State :=
  let r := getPort s.bridge p
  match r.state with
  | .up => onPort p (fun r =>
      { r with state := .suspect, window := 1, windowTimer := some Config.windowTime }) s
  | .suspect =>
    if 4 ≤ r.window + 1 then enterRetrain p s
    else onPort p (fun r => { r with window := r.window + 1 }) s
  | .retrain | .down => s

/-- A port error is counted and acted on (R1). -/
def portError (p : Port) (s : State) : State :=
  errorActs p (onPort p (fun r => { r with errors := satInc r.errors }) s)

/-- A port comes to UP on a sync, after its answer (R4, R5). -/
def portUp (own : Nat) (r : PortRec) : PortRec :=
  kick { sendSync own r with
    state := .up
    retrains := 0
    attempt := none
    sync := none
    retry := none
    settle := some Config.settleTime }

/-- A good LINKCTL frame acts as a sync (R6). -/
def syncReceived (p : Port) (s : State) : State :=
  let r := getPort s.bridge p
  match r.state with
  | .up => if r.settle.isSome then s else portError p s
  | .suspect => enterRetrain p (onPort p (fun r => { r with errors := satInc r.errors }) s)
  | .retrain => onPort p (portUp s.bridge.ownNode) s
  | .down => setLevelKind (downKind p) false (onPort p (portUp s.bridge.ownNode) s)

/-- A retrain attempt passes without a sync (R4, R5). -/
def attemptEnds (p : Port) (s : State) : State :=
  let r := getPort s.bridge p
  match r.state with
  | .retrain =>
    if r.retrains + 1 < 3 then onPort p (fun r => beginAttempt { r with retrains := r.retrains + 1 }) s
    else setLevelKind (downKind p) true (onPort p (fun r =>
      { r with
        state := .down
        retrains := 3
        attempt := none
        sync := none
        retry := some Config.downRetryTime }) s)
  | .up | .suspect | .down => onPort p (fun r => { r with attempt := none, sync := none }) s

/-! ### The filter, the guards and routing (R9, R11 to R13) -/

/-- Whether a guard is closed (R12). -/
def guardClosed (s : State) (g : GuardKind) : Bool :=
  s.mgmt.mode == .run &&
    match g with
    | .levelL => automatic s.level.left.vars.mode
    | .levelR => automatic s.level.right.vars.mode
    | .feedL => s.feed.left.vars.mode == .auto
    | .feedR => s.feed.right.vars.mode == .auto

/-- Whether a filter entry matches a frame (R11). -/
def filterMatches (f : Frame) (e : FilterEntry) : Bool :=
  e.valid && e.cls == f.cls && (e.src == none || e.src == some f.src) &&
    (e.dst == none || e.dst == some f.dst) && decide (e.chanLow ≤ f.chan) && decide (f.chan ≤ e.chanHigh)

/-- The filter entry that decides a frame: the first that matches (R11). -/
def decidingEntry (b : Bridge) (f : Frame) : Option (Fin 24) :=
  (List.finRange 24).find? fun i => filterMatches f b.filters[i]

/-- The deciding entry's hit count rises by one (R11). -/
def hitEntry (b : Bridge) (i : Fin 24) : Bridge :=
  { b with filters := upd b.filters i fun e => { e with hits := satInc e.hits } }

/-- A frame that the filter passed goes to the other port's output queue (R9, R15). -/
def forwardFrame (p : Port) (f : Frame) (mark : Option GuardKind) (s : State) : State :=
  let r := getPort s.bridge p
  if !carries r then onPort p (discard 1) s
  else if admits r ⟨f, false, mark⟩ then onPort p (enqueueFrame · ⟨f, false, mark⟩) s
  else occur .forwardDrop (onPort p (discard 1) s)

/-- The filter decides a frame that arrived on port `p` (R11, R12). -/
def filterFrame (p : Port) (f : Frame) (s : State) : State :=
  match decidingEntry s.bridge f with
  | none => forwardFrame (otherPort p) f none s
  | some i =>
    let hit := { s with bridge := hitEntry s.bridge i }
    match s.bridge.filters[i].action with
    | .pass => forwardFrame (otherPort p) f none hit
    | .block => hit
    | .guard g =>
      if guardClosed s g then occur .guardBlock hit else forwardFrame (otherPort p) f (some g) hit

/-- A frame that is not for the hub is routed, or dropped on its own segment (R9). -/
def routeFrame (p : Port) (f : Frame) (s : State) : State :=
  if f.dst = 63 then filterFrame p f s
  else if s.bridge.nodes[ix 63 f.dst].side = portSide p then s
  else filterFrame p f s

/-- Whether a frame carries a guard's mark. -/
def marked (g : GuardKind) (f : OutFrame) : Bool := f.mark == some g

/-- How many frames of a port carry a guard's mark, queued or being sent (R13). -/
def markedCount (g : GuardKind) (r : PortRec) : Nat :=
  r.urgentQ.countP (marked g) + r.normalQ.countP (marked g) + (if r.sending.any (marked g) then 1 else 0)

/-- A port with the frames of a guard removed and one being sent cut off (R13).  That the next frame
begins at once is DEDUCED, log entry 53. -/
def clearMarked (g : GuardKind) (r : PortRec) : PortRec :=
  kick (discard (markedCount g r)
    { r with
      urgentQ := r.urgentQ.filter (fun f => !marked g f)
      normalQ := r.normalQ.filter (fun f => !marked g f)
      sending := if r.sending.any (marked g) then none else r.sending })

/-- A guard closes (R13): its frames are removed from both ports, and the GUARD_BLOCKs are logged after.  That order
is DESIGN CHOICE, log entry 87. -/
def closeGuard (g : GuardKind) (s : State) : State :=
  let n := markedCount g s.bridge.portA + markedCount g s.bridge.portB
  occurTimes .guardBlock n { s with bridge := { s.bridge with
    portA := clearMarked g s.bridge.portA
    portB := clearMarked g s.bridge.portB } }

/-- The guards of sides in automatic modes close at entry into RUN (R13), one after the other in the order of this
list: DESIGN CHOICE, log entry 87. -/
def closeGuards (s : State) : State :=
  [GuardKind.levelL, .levelR, .feedL, .feedR].foldl
    (fun s g => if guardClosed s g then closeGuard g s else s) s

/-! ### Admission of waiting own frames (R16) -/

/-- The own frame that waits for a port and is next in the order of R16. -/
inductive Waiter
  | reply (f : Frame)
  | notice (k : CondKind) (f : Frame)
  | command (t : Fin 7) (f : Frame)
  deriving DecidableEq, Repr

/-- The waiting reply, where it waits for a port. -/
def waitingReplyFor (s : State) (p : Port) : Option Waiter :=
  match s.mgmt.waitingReply with
  | some (q, f) => if q = p then some (.reply f) else none
  | none => none

/-- The oldest notice that waits for a port. -/
def waitingNoticeFor (s : State) (p : Port) : Option Waiter :=
  (s.log.waiting.find? (·.2.1 == p)).map fun x => .notice x.1 x.2.2

/-- The first waiting command of the target table for a port. -/
def waitingCommandFor (s : State) (p : Port) : Option Waiter :=
  (List.finRange 7).findSome? fun t =>
    match (getTarget s t).waiting with
    | some (q, f) => if q = p then some (.command t f) else none
    | none => none

/-- The next waiting own frame for a port (R16). -/
def nextWaiter (s : State) (p : Port) : Option Waiter :=
  ((waitingReplyFor s p).or (waitingNoticeFor s p)).or (waitingCommandFor s p)

/-- The frame of a waiter. -/
def waiterFrame : Waiter → Frame
  | .reply f => f
  | .notice _ f => f
  | .command _ f => f

/-- Whether a port has a free place for a waiting own frame. -/
def placeFree (r : PortRec) : Bool := carries r && decide (depth r < Config.queuePlaces)

/-- A waiter's producer is told that its frame was admitted. -/
def waiterAdmitted (w : Waiter) (s : State) : State :=
  match w with
  | .reply _ => { s with mgmt := releaseReply s.mgmt }
  | .notice k _ => { s with log := { s.log with waiting := s.log.waiting.filter (·.1 != k) } }
  | .command t _ => { s with disp := modTarget s.disp t markSent }

/-- A freed place admits the next waiting own frame (R16). -/
def admitWaiting (p : Port) (s : State) : State :=
  match nextWaiter s p with
  | some w =>
    if placeFree (getPort s.bridge p) then
      waiterAdmitted w (onPort p (enqueueFrame · ⟨waiterFrame w, true, none⟩) s)
    else s
  | none => s

end Sys2Proof.Machine
end

