-- ==== Sys2Proof/Machine/Operands.lean ====
section
/-! DEFINITION. The operands of table writes: for each table of 12.2, the checks of its owning rule in
their order and the clamping of its numeric fields.  An accepted write is CLAMPED where the values
held after it differ from the values written (R176). -/

namespace Sys2Proof.Machine

/-- What the checks of a write answer: a refusal, or the value to hold with its CLAMPED mark. -/
inductive Verdict (α : Type)
  | refuse (c : ReplyCode)
  | accept (value : α) (clamped : Bool)
  deriving DecidableEq, Repr

/-- A write accepted with the value `held` where `written` was asked for. -/
def accepted {α : Type} [DecidableEq α] (written held : α) : Verdict α :=
  .accept held (held != written)

/-- A write refused with a code, where a check fails. -/
def refuseIf {α : Type} (bad : Bool) (c : ReplyCode) (v : Verdict α) : Verdict α :=
  if bad then .refuse c else v

/-! ### Bridge and intake -/

/-- A node table entry (R10, R176). -/
def checkNode (w : NodeWrite) : Verdict NodeEntry :=
  match w.side with
  | none => .refuse .badValue
  | some side => refuseIf (8 < w.role.length) .badValue (.accept ⟨side, w.role⟩ false)

/-- The own node and console node pair (R176). -/
def checkPair (own console : Nat) : Verdict (Nat × Nat) :=
  refuseIf (62 < own || 62 < console || own == console) .badValue (.accept (own, console) false)

/-- A filter entry (R11); its hit count becomes 0.  That BAD_VALUE (R176) stands before BAD_ORDER is DESIGN
CHOICE, log entry 73. -/
def checkFilter (w : FilterWrite) : Verdict FilterEntry :=
  match w.cls, w.action with
  | some cls, some action =>
    refuseIf (w.src.any (62 < ·) || w.dst.any (63 < ·) || 255 < w.chanLow || 255 < w.chanHigh) .badValue
      (refuseIf (w.chanHigh < w.chanLow) .badOrder
        (.accept ⟨w.valid, cls, w.src, w.dst, w.chanLow, w.chanHigh, action, 0⟩ false))
  | _, _ => .refuse .badValue

/-- An intake entry (R20). -/
def checkIntake (w : IntakeEntry) : Verdict IntakeEntry :=
  refuseIf (62 < w.node || 8 < w.slot || !(w.width == 1 || w.width == 2 || w.width == 4) ||
      39 < w.offset || 40 < w.offset + w.width || 255 < w.chan) .badValue
    (accepted w { w with
      mult := clampInt (-32768) 32767 w.mult
      divisor := clampInt 1 32767 w.divisor
      add := clampInt int32Min int32Max w.add
      limit := clampNat 20 10000 w.limit })

/-! ### Travel and measurement -/

/-- The travel parameters (R30): an odd base width becomes the even value one below it. -/
def checkTravel (w : TravelParams) : Verdict TravelParams :=
  accepted w
    { stopSpeed := clampNat 1 500 w.stopSpeed
      parkTime := clampNat 5 600 w.parkTime
      baseWidth := clampNat 2000 3500 w.baseWidth / 2 * 2 }

/-- A sensor entry (R42). -/
def checkSensor (w : SensorEntry) : Verdict SensorEntry :=
  let e : SensorEntry :=
    { r0 := clampNat 500 60000 w.r0
      sens := clampNat 100 1000 w.sens
      short := clampNat 0 65534 w.short
      opened := clampNat 1 65535 w.opened
      jump := clampNat 1 3000 w.jump }
  refuseIf (e.opened ≤ e.short) .badOrder (accepted w e)

/-- The reference entry (R43).  A mode that is not named and a gate or period number that is not listed are
refused before ref_lo is compared with ref_hi: DESIGN CHOICE, log entry 73. -/
def checkReference (w : ReferenceWrite) : Verdict ReferenceEntry :=
  let r := clampNat 1000 65535 w.rRef
  let lo := clampNat 1 65534 w.refLo
  let hi := clampNat 1 65534 w.refHi
  match w.mode with
  | none => .refuse .badValue
  | some mode =>
    refuseIf (!([1, 2, 4, 8].contains w.gate && [4096, 8192, 16384, 32768].contains w.periods))
      .badValue
      (refuseIf (hi < lo) .badOrder
        (.accept ⟨mode, w.gate, w.periods, r, lo, hi⟩ (r != w.rRef || lo != w.refLo || hi != w.refHi)))

/-- The sweep list (R44). -/
def checkSweep (l : List Nat) : Verdict (List Nat) :=
  refuseIf (19 < l.length || l.any (fun n => n == 0 || 19 < n) || !decide l.Nodup) .badValue
    (.accept l false)

/-! ### Zones -/

/-- The numeric fields of a zone entry clamped (R64, step 3). -/
def clampZone (w : ZoneEntry) : ZoneEntry :=
  { w with
    buddyOffset := clampInt (-500) 500 w.buddyOffset
    setpoint := clampInt 500 2500 w.setpoint
    standby := clampInt 500 2500 w.standby
    warmBand := clampInt 10 300 w.warmBand
    gain := clampInt 0 255 w.gain
    hold := clampInt 0 255 w.hold
    ceiling := clampInt 800 2800 w.ceiling
    boostMax := clampInt 0 300 w.boostMax
    boostStep := clampInt 1 50 w.boostStep
    trigger := clampNat 1 1000 w.trigger
    rating := clampNat 100 6000 w.rating
    staleTime := clampNat 500 10000 w.staleTime }

/-- Whether a zone entry keeps the ceiling margin (R65). -/
def marginHeld (e : ZoneEntry) : Bool := e.setpoint + e.boostMax ≤ e.ceiling - 100

/-- The zone test of the RUN validation, but for its margin clause (R64, R178). -/
def zonePasses (sweep : List Nat) (i : Nat) (e : ZoneEntry) : Bool :=
  sweep.contains e.primary && e.spare != some e.primary && e.buddy != some i && decide (e.first ≤ e.last)

/-- Whether a sensor line number is 1 to 19. -/
def isSensorLine (n : Nat) : Bool := n != 0 && decide (n ≤ 19)

/-- The setpoint replaced where it alone breaks the margin (R65). -/
def fitSetpoint (e : ZoneEntry) : ZoneEntry :=
  if marginHeld e then e else { e with setpoint := e.ceiling - 100 - e.boostMax }

/-- A zone entry (R64, R65) for zone `i`, against the entry held.  A priority class above 3, which R64's
checks do not name, is a structural field outside its range (R176): refused with BAD_VALUE (DEDUCED, log
entry 31) where R64's second check, which in RUN refuses every change of the class, has not refused it. -/
def checkZone (run : Bool) (sweep : List Nat) (i : Nat) (old w : ZoneEntry) : Verdict ZoneEntry :=
  let c := clampZone w
  let e := fitSetpoint c
  refuseIf (!isSensorLine w.primary || w.spare.any (fun l => !isSensorLine l) || w.buddy.any (15 < ·) ||
      63 < w.first || 63 < w.last) .badValue
    (refuseIf (run && (w.primary != old.primary || w.spare != old.spare || w.first != old.first ||
        w.last != old.last || w.cls != old.cls)) .wrongMode
      (refuseIf (3 < w.cls) .badValue
        (refuseIf (!marginHeld c && (c.ceiling != old.ceiling || c.boostMax != old.boostMax)) .badValue
          (refuseIf (run && e.enable && !zonePasses sweep i e) .badValue (accepted w e)))))

/-! ### Budget and votes -/

/-- The budget entry (R86), against the heater period held. -/
def checkBudget (run : Bool) (period : Nat) (w : BudgetEntry) : Verdict BudgetEntry :=
  refuseIf (!([1, 2, 4, 8].contains w.period) || 7 < w.select) .badValue
    (refuseIf (run && w.period != period) .wrongMode
      (accepted w { w with
        nominal := clampNat 1000 60000 w.nominal
        sagPercent := clampNat 10 100 w.sagPercent
        debounce := clampNat 20 2000 w.debounce
        recover := clampNat 1 60 w.recover }))

/-- Whether thresholds are strictly ascending. -/
def ascending : List Nat → Bool
  | a :: b :: rest => decide (a < b) && ascending (b :: rest)
  | _ => true

/-- The highest threshold of a vote table (6.4). -/
def thresholdTop : Nat → Nat
  | 0 => 100000
  | 1 => 1000
  | _ => 3000

/-- A vote table (R93).  Fields of the other form are refused as structural. -/
def checkVote (index : Nat) (w : VoteFields) : Verdict VoteFields :=
  match w with
  | .thresholds ts =>
    let c := ts.map (clampNat 0 (thresholdTop index))
    refuseIf (index == 3) .badValue
      (refuseIf (!ascending c.toList) .badOrder (.accept (.thresholds c) (c != ts)))
  | .floorDelay f d =>
    let f' := clampNat 0 7 f
    let d' := clampNat 1 60 d
    refuseIf (index != 3) .badValue (.accept (.floorDelay f' d') (f' != f || d' != d))

/-! ### Levelling -/

/-- A levelling parameter entry (R101). -/
def checkLevel (w : LevelEntry) : Verdict LevelEntry :=
  let e : LevelEntry :=
    { limit := clampNat 4 255 w.limit
      engage := clampNat 1 255 w.engage
      release := clampNat 0 254 w.release
      jump := clampNat 1 2000 w.jump
      deadband := clampNat 0 500 w.deadband
      gain := clampNat 0 255 w.gain
      minimum := clampNat 0 1000 w.minimum
      maximum := clampNat 1 1000 w.maximum }
  refuseIf (e.limit < e.engage || e.engage ≤ e.release || e.maximum < e.minimum) .badOrder
    (accepted w e)

/-- A profile entry (R116), for index `i`.  The station is a signed 32-bit number. -/
def checkProfile (locked : Bool) (p : Vector ProfileEntry 64) (i : Nat) (w : ProfileEntry) :
    Verdict ProfileEntry :=
  let e : ProfileEntry :=
    { w with
      station := clampInt int32Min int32Max w.station
      left := clampInt (-5000) 5000 w.left
      right := clampInt (-5000) 5000 w.right
      slope := clampInt (-1500) 1500 w.slope }
  refuseIf locked .locked
    (refuseIf (w.valid && !ordered p i e.station) .badOrder (accepted w e))

/-- The protection entry (R120). -/
def checkProtection (locked : Bool) (w : ProtectionWrite) : Verdict Protection :=
  refuseIf locked .locked
    (match w.anchor, w.lock with
      | some anchor, some lock =>
        refuseIf (7 < w.span) .badValue (.accept ⟨anchor, w.span, w.invert, lock⟩ false)
      | _, _ => .refuse .badValue)

/-! ### Feed, targets, map, archive and conditions -/

/-- A feed entry (R123). -/
def checkFeed (w : FeedEntry) : Verdict FeedEntry :=
  let e : FeedEntry :=
    { points := w.points.map fun x => (clampNat 0 600 x.1, clampNat 0 1000 x.2)
      lowMark := clampNat 0 600 w.lowMark
      starveTime := clampNat 5 120 w.starveTime }
  refuseIf (!ascending (e.points.toList.map (·.1))) .badOrder (accepted w e)

/-- Whether another enabled row has the same node and channel (R134). -/
def clashes (targets : Vector Target 7) (i : Nat) (w : TargetRow) : Bool :=
  (List.finRange 7).any fun t => t.val != i && targets[t].row.enabled &&
    targets[t].row.node == w.node && targets[t].row.chan == w.chan

/-- The neutral value that a row holds (9.1): row 6 keeps none. -/
def neutralFor (i : Nat) (n : Int) : Int :=
  if i = 6 then 0 else if i < 2 then clampInt (-1000) 1000 n else clampInt 0 1000 n

/-- A target row (R134), for row `i`. -/
def checkTarget (targets : Vector Target 7) (i : Nat) (w : TargetRow) : Verdict TargetRow :=
  let n := neutralFor i w.neutral
  let t := clampNat 10 1000 w.timeout
  refuseIf (62 < w.node || 255 < w.chan) .badValue
    (refuseIf (w.enabled && clashes targets i w) .badValue
      (.accept { w with neutral := n, timeout := t } (t != w.timeout || (i != 6 && n != w.neutral))))

/-- The map entry (R144), against the entry held. -/
def checkMap (run : Bool) (old w : MapEntry) : Verdict MapEntry :=
  refuseIf (w.scanner.any (62 < ·)) .badValue
    (refuseIf (run && (w.scanner != old.scanner || w.pitch != old.pitch)) .wrongMode
      (accepted w { w with
        pitch := clampNat 25 200 w.pitch
        cold := clampNat 0 250 w.cold
        seg := clampNat 0 250 w.seg }))

/-- The archive entry (R160), against the entry held.  A policy that is neither is refused before the checks
of R160: DESIGN CHOICE, log entry 73. -/
def checkArchive (run : Bool) (old : ArchiveEntry) (w : ArchiveWrite) : Verdict ArchiveEntry :=
  let first := clampNat 0 65535 w.first
  let count := clampNat 0 8192 w.count
  let size := clampNat 2 65536 w.size
  match w.policy with
  | none => .refuse .badValue
  | some policy =>
    refuseIf (w.count == 1) .badValue
      (refuseIf (run && (w.first != old.first || w.count != old.count || w.size != old.size)) .wrongMode
        (.accept ⟨first, count, size, policy, w.streaming⟩
          (first != w.first || count != w.count || size != w.size)))

end Sys2Proof.Machine
end

