-- ==== Sys2Proof/Machine/Manage.lean ====
section
/-! DEFINITION. The Management Engine's operations (chapter 12): the change of hub mode with its
reports, the entry into FAULTSTOP, and the service of a request with its reply. -/

namespace Sys2Proof.Machine

/-! ### Hub modes (R177, R179) -/

/-- Whether a level kind with severity STOP is active (R177, R179). -/
def stopStands (l : CondLog) : Bool :=
  condKinds.any fun k => isLevelKind k && (condEntry l k).active && (condEntry l k).severity == .stop

/-- The bridge and the log take a hub mode report: at entry into RUN, guards close (R13) and an active
level kind of severity STOP asks for FAULTSTOP (R179). -/
def runEntered (s : State) : State :=
  let s := closeGuards s
  if stopStands s.log then { s with mgmt := { s.mgmt with stopAsked := true } } else s

/-- The hub mode changes, and the hub mode report goes to its receivers (R177), in an order that is
DESIGN CHOICE, log entry 22. -/
def setHubMode (new : HubMode) (s : State) : State :=
  let old := s.mgmt.mode
  let s := reviewAll { s with mgmt := { s.mgmt with mode := new } }
  let s := levelMode old new (voterMode old new s)
  let s := mapMode new (dispatcherMode new (feedHubMode new s))
  if new = .run then runEntered s else s

/-- A FAULTSTOP request standing at the end of a step is acted on in RUN (R179).  The moment is
DEDUCED, log entry 23. -/
def settle (s : State) : State :=
  if s.mgmt.stopAsked then
    let t := { s with mgmt := { s.mgmt with stopAsked := false } }
    if s.mgmt.mode = .run then setHubMode .faultstop t else t
  else s

/-! ### Replies (R174) -/

/-- What a request's body answers: a reply, or no reply yet, for a served FETCH (R169). -/
inductive Answer
  | reply (c : ReplyCode) (fields : ReplyFields)
  | later
  deriving DecidableEq, Repr

/-- The answer that carries a code alone. -/
def plain (c : ReplyCode) : Answer := .reply c .none

/-- The REPLY frame of an answer (R174). -/
def replyFrame (own code seq dst : Nat) (c : ReplyCode) (fields : ReplyFields) : Frame :=
  ⟨.reply, false, seq, 0, dst, own, code, .reply c fields⟩

/-- The request code last refused BUSY follows an answer (R174). -/
def noteBusy (code : Nat) (c : ReplyCode) (s : State) : State :=
  if c = .busy then { s with mgmt := { s.mgmt with lastBusy := code } } else s

/-- A reply of the request in service is offered; one that is refused waits (R16, R174).  That a BUSY by the
request's own rule waits too is DESIGN CHOICE, log entry 83. -/
def offerReply (r : Request) (c : ReplyCode) (fields : ReplyFields) (s : State) : State :=
  let f := replyFrame s.bridge.ownNode r.code r.seq r.src c fields
  let o := offerOwn s.bridge f
  let t := noteBusy r.code c { s with bridge := o.1 }
  { t with mgmt := if o.2 = .refused
      then { t.mgmt with waitingReply := some (portFor s.bridge f.dst, f) } else replyDone t.mgmt }

/-- A request that meets one in service is answered BUSY, once (R174). -/
def refuseBusy (code : Nat) (seq : Seq) (s : State) : State :=
  let f := replyFrame s.bridge.ownNode code seq.val s.bridge.consoleNode .busy .none
  noteBusy code .busy { s with bridge := (offerOwn s.bridge f).1 }

/-- A request becomes the request in service. -/
def begin (code : Nat) (seq : Seq) (s : State) : State :=
  { s with mgmt := { s.mgmt with request := some ⟨code, seq.val, s.bridge.consoleNode, .plain⟩ } }

/-- The request code of RUN, whose reply precedes the FAULTSTOP entry it may bring (R179). -/
def runCode : Nat := 11

/-- The answer of a served request is offered. -/
def answer (a : Answer) (s : State) : State :=
  match a, s.mgmt.request with
  | .reply c fields, some r => offerReply r c fields s
  | _, _ => s

/-- A request of the console is served, or answered BUSY while another is in service (R174).  The reply is
offered after the change that the request makes and what that change sends: R177 says so of a change of hub
mode; for every other request, as an intake write that raises SLOT_STALE (R27), whose notice is offered before
the write's reply, it is DESIGN CHOICE, log entry 90. -/
def serve (code : Nat) (seq : Seq) (body : State → State × Answer) (s : State) : State :=
  if s.mgmt.request.isSome then refuseBusy code seq s
  else
    let r := body (begin code seq s)
    settle (answer r.2 (if code = runCode then r.1 else settle r.1))

/-- The request in service takes a kind. -/
def setKind (k : RequestKind) (s : State) : State :=
  { s with mgmt := { s.mgmt with request := s.mgmt.request.map fun r => { r with kind := k } } }

/-! ### Table requests (R176) -/

/-- The highest index of a table (12.2). -/
def tableTop : Nat → Nat
  | 0 => 64
  | 1 | 2 => 23
  | 3 => 19
  | 6 => 15
  | 8 => 3
  | 9 | 12 => 1
  | 10 => 63
  | 13 => 6
  | 16 => 24
  | _ => 0

/-- Whether WRITE_ENTRY of a table is served in a hub mode (12.2). -/
def writeServed (table : Nat) : HubMode → Bool
  | .config => true
  | .run => (decide (6 ≤ table) && table != 13)
  | .faultstop => table == 16

/-- The first three checks of a table write (R176). -/
def tableRefusal (table index : Nat) (m : HubMode) : Option ReplyCode :=
  if 16 < table then some .badTable
  else if tableTop table < index then some .badIndex
  else if writeServed table m then none else some .wrongMode

/-- The code of an accepted write. -/
def writeCode (clamped : Bool) : ReplyCode := if clamped then .clamped else .ok

/-- A table write: the checks of R176, then the owning rule's, then its effects. -/
def writing {α : Type} (table index : Nat) (check : State → Verdict α) (apply : α → State → State)
    (s : State) : State × Answer :=
  match tableRefusal table index s.mgmt.mode with
  | some c => (s, plain c)
  | none =>
    match check s with
    | .refuse c => (s, plain c)
    | .accept x clamped => (apply x s, plain (writeCode clamped))

/-- A request that is served in one hub mode alone (12.1). -/
def onlyIn (m : HubMode) (body : State → State × Answer) (s : State) : State × Answer :=
  if s.mgmt.mode = m then body s else (s, plain .wrongMode)

end Sys2Proof.Machine
end

