-- ==== Sys2Proof/Machine/Reads.lean ====
section
/-! DEFINITION. What STATUS and the READ requests return (R61, R83, R98, R121, R132, R142, R157, R172,
R175, R176). -/

namespace Sys2Proof.Machine

/-! ### STATUS (R175) -/

/-- A port's status (1.8). -/
def portStatus (r : PortRec) : PortStatus :=
  ⟨r.state, r.window, r.retrains, r.received, r.errors, r.discards⟩

/-- Part 0. -/
def hubStatus (s : State) : HubStatus :=
  ⟨s.mgmt.mode, s.mgmt.jobClock, alarmLine s, s.mgmt.lastBusy, s.heat.master, s.level.protection.lock,
    s.jobKey⟩

/-- Part 2 (3.5). -/
def travelStatus (t : Travel) : TravelStatus :=
  ⟨t.station, t.highWater, t.motion, t.heldLeft, t.heldRight, t.cLo, t.cHi⟩

/-- Part 3 (R98). -/
def powerStatus (s : State) : PowerStatus where
  sag := s.power.sag
  budget := budgetNow s.power
  allocated := (s.power.records.toList.map fun r => r.rating * r.alloc / 255).sum
  demand := totalDemand s.power.records
  heating := (heatingVote s.voter, s.voter.heatRight)
  feed := (feedVote s.voter, s.voter.feedRight)
  travel := (travelVote s.voter, s.voter.travelRight)
  resolved := resolvedLevel s.voter
  requested := s.voter.requested
  downDelay := s.voter.timer

/-- Part 4 (R157). -/
def mapStatus (m : MatMap) : MapStatus where
  scan := m.scan
  present := m.segs.toList.map (·.isSome)
  lastApplied := m.lastApplied
  ignored := m.ignored
  taken := m.taken
  notTaken := m.notTaken
  row := m.row.map fun r => ⟨r.start, r.span, r.scanned, r.flags⟩
  queued := m.queue.length
  gap := m.gap.map fun g => ⟨g.first, g.last, g.rows, g.reason, g.restart⟩
  cause := m.cause

/-- Part 5 (R172); a number reads 0 where there is none (11.6). -/
def archiveStatus (a : Archive) : ArchiveStatus where
  state := a.state
  rangeFirst := a.first
  rangeCount := a.count
  rangeSize := a.size
  stored := a.stored
  write := a.write
  nextNumber := a.nextNumber
  oldest := a.oldest.getD 0
  newest := a.newest.getD 0
  buffered := a.buffer.length
  flush := a.flush
  erase := a.erase
  held := a.held
  failures := a.failures
  skipped := a.skipped
  lost := a.lost
  dirty := a.dirty

/-- The reply fields of a part of STATUS. -/
def statusPart (s : State) : Nat → Option ReplyFields
  | 0 => some (.hub (hubStatus s))
  | 1 => some (.ports (portStatus s.bridge.portA) (portStatus s.bridge.portB))
  | 2 => some (.travel (travelStatus s.travel))
  | 3 => some (.power (powerStatus s))
  | 4 => some (.map (mapStatus s.map))
  | 5 => some (.archive (archiveStatus s.archive))
  | 6 => some (.active (s.log.entries.toList.map (·.active)))
  | _ => none

/-- A read request: its fields, or BAD_VALUE. -/
def reading (fields : State → Option ReplyFields) (s : State) : State × Answer :=
  match fields s with
  | some x => (s, .reply .ok x)
  | none => (s, plain .badValue)

/-! ### READ_ENTRY (R176) -/

/-- A row of the target table as it is read back: row 6 shows the floor level (9.1). -/
def readRow (s : State) (i : Nat) : TargetRow :=
  let t := ix 6 i
  { (getTarget s t).row with neutral := neutralOf s t }

/-- A vote table as it is read back. -/
def readVotes (v : Voter) : Nat → EntryValue
  | 0 => .thresholds v.heating
  | 1 => .thresholds v.feed
  | 2 => .thresholds v.travel
  | _ => .floorDelay v.floor v.downDelay

/-- An entry of a table whose id and index are in range. -/
def readTable (s : State) (table i : Nat) : EntryValue :=
  match table with
  | 0 => if i = 64 then .nodePair s.bridge.ownNode s.bridge.consoleNode else .node s.bridge.nodes[ix 63 i]
  | 1 => .filter s.bridge.filters[ix 23 i]
  | 2 => .intake s.intake.entries[ix 23 i]
  | 3 => if i = 0 then .reference s.rmu.ref else .sensor s.rmu.lines[lineIx i].entry
  | 4 => .sweep s.rmu.sweepList
  | 5 => .travel s.travel.params
  | 6 => .zone s.heat.zones[ix 15 i].entry
  | 7 => .budget s.power.entry
  | 8 => readVotes s.voter i
  | 9 => .level (if i = 0 then s.level.left.entry else s.level.right.entry)
  | 10 => .profile s.level.profile[ix 63 i]
  | 11 => .protection s.level.protection
  | 12 => .feed (if i = 0 then s.feed.left.entry else s.feed.right.entry)
  | 13 => .target (readRow s i)
  | 14 => .map s.map.entry
  | 15 => .archive s.archive.stored
  | _ => .condition s.log.entries[ix 24 i]

/-- READ_ENTRY (R176). -/
def entryRead (table index : Nat) (s : State) : State × Answer :=
  if 16 < table then (s, plain .badTable)
  else if tableTop table < index then (s, plain .badIndex)
  else (s, .reply .ok (.entry (readTable s table index)))

/-! ### The other READ requests -/

/-- READ_SLOT (2.1). -/
def slotFields (i : Nat) (s : State) : Option ReplyFields :=
  if 8 < i then none else some (.slot s.intake.slots[ix 8 i])

/-- The line or zone that a zone's source names (R83). -/
def sourceNames (x : Zone) : Option Nat :=
  match x.vars.source with
  | .primary => some x.entry.primary
  | .spare => x.entry.spare
  | .buddy => x.entry.buddy
  | .none => none

/-- READ_ZONE (R83). -/
def zoneFields (i : Nat) (s : State) : Option ReplyFields :=
  if 15 < i then none
  else some (.zone (getZone s (ix 15 i)).vars (sourceNames (getZone s (ix 15 i))))

/-- READ_SIDE (R121). -/
def sideFields (d : Option Side) (s : State) : Option ReplyFields := d.map fun d => .side (sideVars s d)

/-- READ_FEED (R132). -/
def feedFields (d : Option Side) (s : State) : Option ReplyFields :=
  d.map fun d => .feed (feedVars s d) (halfOf s.feed d)

/-- READ_LINE (R61). -/
def lineFields (i : Nat) (s : State) : Option ReplyFields :=
  if 19 < i then none
  else if i = 0 then
    some (.reference s.rmu.lastRef s.rmu.heldRef s.rmu.refAge (isActive s .refFail)
      (s.rmu.counting.map fun c => (c.line, c.phase)))
  else some (.line s.rmu.lines[lineIx i].vars (s.rmu.sweepList.contains i))

/-- READ_TARGET (R142). -/
def targetFields (i : Nat) (s : State) : Option ReplyFields :=
  if 6 < i then none
  else some (.target (readRow s i) (getTarget s (ix 6 i)).vars (getTarget s (ix 6 i)).waiting.isSome)

end Sys2Proof.Machine
end

