-- ==== Sys2Proof/Machine/Writes.lean ====
section
/-! DEFINITION. The bodies of WRITE_ENTRY, table by table: the checks of Operands.lean and the effects
that the owning rules give an accepted write. -/

namespace Sys2Proof.Machine

/-- A node table entry (R10). -/
def nodeBody (i : Nat) (w : NodeWrite) : State → State × Answer :=
  writing 0 i (fun _ => if i = 64 then .refuse .badValue else checkNode w) fun e s =>
    { s with bridge := { s.bridge with nodes := upd s.bridge.nodes (ix 63 i) fun _ => e } }

/-- The own node and the console node (R10, R176). -/
def pairBody (own console : Nat) : State → State × Answer :=
  writing 0 64 (fun _ => checkPair own console) fun p s =>
    { s with bridge := { s.bridge with ownNode := p.1, consoleNode := p.2 } }

/-- A filter entry (R11). -/
def filterBody (i : Nat) (w : FilterWrite) : State → State × Answer :=
  writing 1 i (fun _ => checkFilter w) fun e s =>
    { s with bridge := { s.bridge with filters := upd s.bridge.filters (ix 23 i) fun _ => e } }

/-- An intake entry (R20, R27). -/
def intakeBody (i : Nat) (w : IntakeEntry) : State → State × Answer :=
  writing 2 i (fun _ => checkIntake w) fun e s =>
    evalSlotStale { s with intake := { s.intake with
      entries := upd s.intake.entries (ix 23 i) fun _ => ⟨e, 0⟩ } }

/-- A sensor entry (R42). -/
def sensorBody (i : Nat) (w : SensorEntry) : State → State × Answer :=
  writing 3 i (fun _ => if i = 0 then .refuse .badValue else checkSensor w) (sensorWritten i)

/-- The reference entry (R43). -/
def referenceBody (w : ReferenceWrite) : State → State × Answer :=
  writing 3 0 (fun _ => checkReference w) referenceWritten

/-- The sweep list (R44). -/
def sweepBody (i : Nat) (l : List Nat) : State → State × Answer :=
  writing 4 i (fun _ => checkSweep l) sweepWritten

/-- The travel parameters (R30). -/
def travelBody (i : Nat) (w : TravelParams) : State → State × Answer :=
  writing 5 i (fun _ => checkTravel w) travelWritten

/-- Whether the hub is in RUN. -/
def inRun (s : State) : Bool := s.mgmt.mode == .run

/-- A zone entry (R64, R65). -/
def zoneBody (i : Nat) (w : ZoneEntry) : State → State × Answer :=
  writing 6 i (fun s => checkZone (inRun s) s.rmu.sweepList i (getZone s (ix 15 i)).entry w)
    (zoneWritten (ix 15 i))

/-- The effects of an accepted write of the budget entry, in the order of R86's list (DESIGN CHOICE, log
entry 79). -/
def budgetWritten (e : BudgetEntry) (s : State) : State :=
  let old := s.power.entry
  let t := { s with power := { s.power with entry := e } }
  let t := if budgetNow t.power = budgetNow s.power then t else allocate t
  let t := if e.select = old.select then t else thresholdChanged t
  if e.period = old.period then t else { t with heat := restartPeriod t.heat }

/-- The budget entry (R86). -/
def budgetBody (i : Nat) (w : BudgetEntry) : State → State × Answer :=
  writing 7 i (fun s => checkBudget (inRun s) s.power.entry.period w) budgetWritten

/-- The vote tables with one of them written (R93). -/
def withVotes (i : Nat) (w : VoteFields) (v : Voter) : Voter :=
  match w with
  | .floorDelay f d => { v with floor := f, downDelay := d }
  | .thresholds ts =>
    match i with
    | 0 => { v with heating := ts }
    | 1 => { v with feed := ts }
    | _ => { v with travel := ts }

/-- The effects of an accepted write of a vote table (R93, R97): outside RUN a changed floor becomes
the requested level and is submitted. -/
def voteWritten (i : Nat) (w : VoteFields) (s : State) : State :=
  let s := reportVoter (withVotes i w) s
  if s.mgmt.mode ≠ .run ∧ s.voter.requested ≠ s.voter.floor then requestLevel s.voter.floor s else s

/-- A vote table (R93). -/
def voteBody (i : Nat) (w : VoteFields) : State → State × Answer :=
  writing 8 i (fun _ => checkVote i w) (voteWritten i)

/-- The side of an index of the levelling and feed tables. -/
def sideOf (i : Nat) : Side := if i = 0 then .left else .right

/-- A levelling parameter entry (R101). -/
def levelBody (i : Nat) (w : LevelEntry) : State → State × Answer :=
  writing 9 i (fun _ => checkLevel w) (levelWritten (sideOf i))

/-- Whether the lock forbids writes as it stands. -/
def lockHolds (s : State) : Bool := lockForbids s.level.protection.lock s.jobKey

/-- A profile entry (R116). -/
def profileBody (i : Nat) (w : ProfileEntry) : State → State × Answer :=
  writing 10 i
    (fun s => checkProfile (isProtected s.level.protection i && lockHolds s) s.level.profile i w)
    fun e s => levelStation { s with level := { s.level with
      profile := upd s.level.profile (ix 63 i) fun _ => e } }

/-- The protection entry (R120). -/
def protectionBody (i : Nat) (w : ProtectionWrite) : State → State × Answer :=
  writing 11 i (fun s => checkProtection (lockHolds s) w) fun e s =>
    { s with level := { s.level with protection := e } }

/-- A feed entry (R123). -/
def feedBody (i : Nat) (w : FeedEntry) : State → State × Answer :=
  writing 12 i (fun _ => checkFeed w) (feedWritten (sideOf i))

/-- A target after an accepted write of its row: its command state ends (R134). -/
def targetAfter (row : TargetRow) (x : Target) : Target :=
  { row := row
    waiting := none
    vars := { x.vars with outstanding := none, ackTimer := none, pending := none, lost := false } }

/-- A target row (R134). -/
def targetBody (i : Nat) (w : TargetRow) : State → State × Answer :=
  writing 13 i (fun s => checkTarget s.disp.targets i w) fun e s =>
    evalTargetLost { s with disp := modTarget s.disp (ix 6 i) (targetAfter e) }

/-- The map after an accepted write of its entry (R144). -/
def mapAfter (e : MapEntry) (m : MatMap) : MatMap :=
  if e.scanner = m.entry.scanner then { m with entry := e }
  else { m with
    entry := e
    scan := none
    segs := .replicate 4 none
    window := none
    lastApplied := none }

/-- The map entry (R144). -/
def mapBody (i : Nat) (w : MapEntry) : State → State × Answer :=
  writing 14 i (fun s => checkMap (inRun s) s.map.entry w) fun e s => { s with map := mapAfter e s.map }

/-- The archive entry (R160). -/
def archiveBody (i : Nat) (w : ArchiveWrite) : State → State × Answer :=
  writing 15 i (fun s => checkArchive (inRun s) s.archive.stored w) archiveWritten

/-- A severity (R184). -/
def checkSeverity (w : Option Severity) : Verdict Severity :=
  match w with
  | some x => .accept x false
  | none => .refuse .badValue

/-- The effects of an accepted write of a severity: in RUN, STOP given to an active level kind asks for
FAULTSTOP (R179). -/
def severityWritten (i : Nat) (x : Severity) (s : State) : State :=
  let e := s.log.entries[ix 24 i]
  { s with
    log := { s.log with entries := upd s.log.entries (ix 24 i) fun e => { e with severity := x } }
    mgmt := { s.mgmt with stopAsked := s.mgmt.stopAsked ||
      (s.mgmt.mode == .run && x == .stop && e.active) } }

/-- A condition entry's severity (R184). -/
def severityBody (i : Nat) (w : Option Severity) : State → State × Answer :=
  writing 16 i (fun _ => checkSeverity w) (severityWritten i)

end Sys2Proof.Machine
end

