-- ==== Sys2Proof/Machine/Requests.lean ====
section
/-! DEFINITION. The bodies of the requests that are neither reads nor table writes, the steps of a
served fetch, and the reading of a request from an MGMT frame. -/

namespace Sys2Proof.Machine

/-! ### SET_MODE (R66, R102, R125) -/

/-- SET_MODE HEAT (R66). -/
def heatBody (on : Option Bool) (s : State) : State × Answer :=
  match on with
  | none => (s, plain .badValue)
  | some on =>
    if on = s.heat.master then (s, plain .ok)
    else (reviewAll { s with heat := { s.heat with master := on } }, plain .ok)

/-- The levelling guard of a side. -/
def levelGuard : Side → GuardKind
  | .left => .levelL
  | .right => .levelR

/-- The feed guard of a side. -/
def feedGuard : Side → GuardKind
  | .left => .feedL
  | .right => .feedR

/-- A levelling side takes a new mode (R102): a GRADE side has then no base and so no target (R118), and
a guard that closes is reported to the bridge (R13) before the side's entry.  That order is DESIGN
CHOICE, log entry 64. -/
def setLevelMode (d : Side) (m : LevelMode) (s : State) : State :=
  let old := (sideVars s d).mode
  let s := modSide d s fun v =>
    { v with
      mode := m
      lastValid := none
      base := none
      counter := 0
      target := if m = .grade then none else v.target }
  let s := if s.mgmt.mode = .run && automatic m && !automatic old then closeGuard (levelGuard d) s else s
  sideModeSet d m s

/-- SET_MODE LEVEL_L or LEVEL_R (R102). -/
def levelModeBody (d : Side) (m : Option LevelMode) (s : State) : State × Answer :=
  match m with
  | none => (s, plain .badValue)
  | some m =>
    if m = .slope ∧ (sideVars s (otherSide d)).mode = .slope then (s, plain .badValue)
    else if m = (sideVars s d).mode then (s, plain .ok)
    else (setLevelMode d m s, plain .ok)

/-- A feed side takes a new mode (R125), its guard closed before its entry: DESIGN CHOICE, log entry
64. -/
def setFeedMode (d : Side) (m : FeedMode) (s : State) : State :=
  let s := modFeedSide d s fun v => { v with mode := m }
  let s := if s.mgmt.mode = .run && m == .auto then closeGuard (feedGuard d) s else s
  feedModeSet d m s

/-- SET_MODE FEED_L or FEED_R (R125). -/
def feedModeBody (d : Side) (m : Option FeedMode) (s : State) : State × Answer :=
  match m with
  | none => (s, plain .badValue)
  | some m => if m = (feedVars s d).mode then (s, plain .ok) else (setFeedMode d m s, plain .ok)

/-! ### RUN, STOP, RESUME (R177, R178) -/

/-- Check 2: the first of slots 0 and 1 that no valid intake entry names. -/
def unnamedSlot (x : Intake) : Option Nat := [0, 1].find? fun i => !inUse x.entries i

/-- Check 3: the lowest enabled zone that fails the zone test. -/
def failingZone (s : State) : Option Nat :=
  ((List.finRange 16).find? fun i =>
    let e := (getZone s i).entry
    e.enable && !(zonePasses s.rmu.sweepList i.val e && marginHeld e)).map (·.val)

/-- Whether an automatic function uses a target (R178). -/
def targetUsed (s : State) : Nat → Bool
  | 0 => automatic s.level.left.vars.mode
  | 1 => automatic s.level.right.vars.mode
  | 2 | 4 => s.feed.left.vars.mode == .auto
  | 3 | 5 => s.feed.right.vars.mode == .auto
  | _ => s.heat.master || s.feed.left.vars.mode == .auto || s.feed.right.vars.mode == .auto

/-- Check 4: the lowest used target row that is not enabled. -/
def failingRow (s : State) : Option Nat :=
  ((List.finRange 7).find? fun t => targetUsed s t.val && !(getTarget s t).row.enabled).map (·.val)

/-- RUN validation: the first failing check with its index (R178). -/
def validateRun (s : State) : Option (Nat × Nat) :=
  if s.bridge.ownNode = s.bridge.consoleNode then some (1, 0)
  else match unnamedSlot s.intake, failingZone s, failingRow s with
    | some i, _, _ => some (2, i)
    | none, some z, _ => some (3, z)
    | none, none, some t => some (4, t)
    | none, none, none =>
      if s.power.entry.nominal = 0 then some (5, 0)
      else if s.archive.stored.count = 0 ∨ s.archive.stored.first + s.archive.stored.count ≤
        s.archive.stored.size then none
      else some (6, 0)

/-- RUN (R177, R178). -/
def runBody : State → State × Answer := onlyIn .config fun s =>
  if s.archive.state = .formatting then (s, plain .busy)
  else match validateRun s with
    | some (check, i) => (s, .reply .badConfig (.badConfig check i))
    | none => (setHubMode .run s, plain .ok)

/-- STOP (R177). -/
def stopBody : State → State × Answer := onlyIn .run fun s => (setHubMode .config s, plain .ok)

/-- RESUME (R177). -/
def resumeBody : State → State × Answer := onlyIn .faultstop fun s =>
  if stopStands s.log then (s, plain .held) else (setHubMode .config s, plain .ok)

/-! ### Station, clock, marks, conditions and lines -/

/-- SET_STATION (R34). -/
def stationBody (n : BitVec 32) : State → State × Answer := onlyIn .config fun s =>
  (stationReport { s with travel := { s.travel with station := n.toInt, highWater := n.toInt } },
    plain .ok)

/-- SET_CLOCK (R175): the next advance comes one second after. -/
def clockBody (n : BitVec 32) (s : State) : State × Answer :=
  ({ s with mgmt := { s.mgmt with jobClock := n.toNat, second := some 1000 } }, plain .ok)

/-- MARK (R156). -/
def markBody (code : BitVec 16) : State → State × Answer := onlyIn .run fun s =>
  let r := placeRecord (.mark s.mgmt.jobClock s.map.station code.toNat) s
  if r.2 then (r.1, plain .ok) else (s, plain .busy)

/-- An entry after CLEAR_CONDITION names its kind (R183). -/
def clearEntry (k : CondKind) (e : CondEntry) : CondEntry :=
  { e with
    count := 0
    firstTime := 0
    lastTime := 0
    armed := true
    alarm := isLevelKind k && e.active && e.alarm
    release := e.release || (isLevelKind k && e.active) }

/-- One kind is cleared (R183). -/
def clearKind (s : State) (k : CondKind) : State :=
  { s with log := { s.log with entries := upd s.log.entries (condNum k) (clearEntry k) } }

/-- CLEAR_CONDITION (R183). -/
def conditionBody (kind : Nat) (s : State) : State × Answer :=
  if kind = 255 then (condKinds.foldl clearKind s, plain .ok)
  else match condKinds[kind]? with
    | some k => (clearKind s k, plain .ok)
    | none => (s, plain .badValue)

/-- CLEAR_LINE (R59). -/
def lineBody (line : Nat) (s : State) : State × Answer :=
  if line = 0 ∨ 19 < line then (s, plain .badValue) else (clearFailedLine line s, plain .ok)

/-- RESET_CONTROL (R175): the reply OK is offered first. -/
def resetBody (s : State) : State × Answer := (setKind (.reset false) s, plain .ok)

/-! ### Archive requests (R169, R170) -/

/-- FETCH (R169).  The numbers of RANGE in FAILED are DESIGN CHOICE, log entry 33, and so is that the
newest record in force when the request is served bounds the fetch, log entry 67. -/
def fetchBody (first count : Nat) (s : State) : State × Answer :=
  let a := s.archive
  let c := clampNat 1 8 count
  let range := Answer.reply .range (.range (a.oldest.getD 0) (a.newest.getD 0))
  match a.state with
  | .scanning | .formatting => (s, plain .busy)
  | .absent | .failed => (s, range)
  | .normal | .full =>
    match a.oldest, a.newest with
    | some lo, some hi =>
      if lo ≤ first ∧ first ≤ hi then
        (setKind (.fetch ⟨first, min (first + c - 1) hi, c != count, false, false⟩) s, .later)
      else (s, range)
    | _, _ => (s, range)

/-- FORMAT (R170).  That BAD_VALUE stands before BUSY, where the stored range is not usable and the archive is
also SCANNING, FORMATTING or at work, is DESIGN CHOICE, log entry 73. -/
def formatBody : State → State × Answer := onlyIn .config fun s =>
  let a := s.archive
  if !storedUsable a.stored then (s, plain .badValue)
  else if a.state = .scanning ∨ a.state = .formatting then (s, plain .busy)
  else if a.program.isSome || a.buffer != [] then (s, plain .busy)
  else (startFormat s, plain .ok)

/-- A served fetch ends with its final reply; the erase that it held is resumed, unless a due program
shares the suspension (R169). -/
def endFetch (r : Request) (f : FetchState) (c : ReplyCode) (fields : ReplyFields) (s : State) : State :=
  let s := setKind (.fetch { f with final := true }) s
  let s := if f.begun && !s.archive.programDue then
    modArchive s fun a => { a with erase := resumeErase a.erase } else s
  offerReply r c fields s

/-- A served fetch reads its next record: its first read suspends an erase, and a number found in no
valid slot is passed over (R165, R169). -/
def readNext (r : Request) (f : FetchState) (s : State) : State :=
  let s := if f.begun then s else modArchive s fun a => { a with erase := suspendErase a.erase }
  let s := setKind (.fetch { f with begun := true, next := f.next + 1 }) s
  match findRecord s f.next with
  | some wire => offerReply r .ok (.record wire) s
  | none => s

/-- Whether a fetch's first read has the port (R165, R169). -/
def canRead (a : Archive) (f : FetchState) : Bool :=
  f.begun || (a.eraseDue.isNone && canSuspend a.erase)

/-- Whether a fetch ends early (R169).  That it does in FAILED is DESIGN CHOICE, log entry 34. -/
def fetchYields (s : State) : Bool :=
  s.archive.programDue || decide (Config.fetchYield ≤ s.map.queue.length) || s.archive.state == .failed

/-- The fetch in service, where it can go on: its previous reply is admitted and no program runs. -/
def fetchReady (s : State) : Option (Request × FetchState) :=
  match s.mgmt.request with
  | some r =>
    match r.kind with
    | .fetch f =>
      if f.final || s.mgmt.waitingReply.isSome || s.archive.program.isSome then none else some (r, f)
    | _ => none
  | none => none

/-- A served fetch takes its next step (R169).  The two PARTIAL conditions are tested first, also while the
fetch waits for the port: DESIGN CHOICE, log entry 68. -/
def fetchStep (s : State) : State :=
  match fetchReady s with
  | none => s
  | some (r, f) =>
    if f.last < f.next then endFetch r f (if f.clamped then .clamped else .ok) .none s
    else if fetchYields s then endFetch r f .part (.next f.next) s
    else if canRead s.archive f then readNext r f s
    else s

/-! ### MGMT frames (R8, R174) -/

/-- The body of a table write whose fields come from a payload. -/
def writeParsed (table index : Nat) (l : List Byte) : Option (State → State × Answer) :=
  match table with
  | 0 => if index = 64 then (Config.pairFields l).map fun p => pairBody p.1 p.2
    else (Config.nodeFields l).map (nodeBody index)
  | 1 => (Config.filterFields l).map (filterBody index)
  | 2 => (Config.intakeFields l).map (intakeBody index)
  | 3 => if index = 0 then (Config.referenceFields l).map referenceBody
    else (Config.sensorFields l).map (sensorBody index)
  | 4 => (Config.sweepFields l).map (sweepBody index)
  | 5 => (Config.travelFields l).map (travelBody index)
  | 6 => (Config.zoneFields l).map (zoneBody index)
  | 7 => (Config.budgetFields l).map (budgetBody index)
  | 8 => if index = 3 then (Config.floorDelayFields l).map fun p => voteBody index (.floorDelay p.1 p.2)
    else (Config.thresholdFields l).map fun ts => voteBody index (.thresholds ts)
  | 9 => (Config.levelFields l).map (levelBody index)
  | 10 => (Config.profileFields l).map (profileBody index)
  | 11 => (Config.protectionFields l).map (protectionBody index)
  | 12 => (Config.feedFields l).map (feedBody index)
  | 13 => (Config.targetFields l).map (targetBody index)
  | 14 => (Config.mapFields l).map (mapBody index)
  | 15 => (Config.archiveFields l).map (archiveBody index)
  | 16 => (Config.severityField l).map (severityBody index)
  | _ => some fun s => (s, plain .badTable)

/-- The body of a SET_MODE request. -/
def modeParsed (f : SetModeFields) : State → State × Answer :=
  match f with
  | .heat on => heatBody on
  | .level d m => levelModeBody d m
  | .feed d m => feedModeBody d m
  | .otherFunction => fun s => (s, plain .badValue)

/-- The body of a request, by its code and payload (12.1); none where the code is not listed or the
payload is too short (R174), which comes before WRONG_MODE and BAD_INDEX: DESIGN CHOICE, log entry 84. -/
def requestParsed (code : Nat) (l : List Byte) : Option (State → State × Answer) :=
  match code with
  | 1 => (Config.numberField 1 l).map fun n => reading (statusPart · n)
  | 2 => (Config.tableFields l).map fun p => entryRead p.1 p.2
  | 3 => (Config.tableFields l).bind fun p => writeParsed p.1 p.2 l
  | 4 => (Config.numberField 4 l).map fun n => reading (slotFields n)
  | 5 => (Config.numberField 5 l).map fun n => reading (zoneFields n)
  | 6 => (Config.sideField 6 l).map fun d => reading (sideFields d)
  | 7 => (Config.sideField 7 l).map fun d => reading (feedFields d)
  | 8 => (Config.numberField 8 l).map fun n => reading (lineFields n)
  | 9 => (Config.numberField 9 l).map fun n => reading (targetFields n)
  | 10 => (Config.setModeFields l).map modeParsed
  | 11 => some runBody
  | 12 => some stopBody
  | 13 => some resumeBody
  | 14 => (Config.stationField l).map stationBody
  | 15 => (Config.clockField l).map clockBody
  | 16 => (Config.markField l).map markBody
  | 17 => (Config.fetchFields l).map fun p => fetchBody p.1 p.2
  | 18 => some formatBody
  | 19 => (Config.numberField 19 l).map conditionBody
  | 20 => (Config.numberField 20 l).map lineBody
  | 21 => some resetBody
  | _ => none

/-- The body of a request that is not listed or too short (R174). -/
def unknownBody (s : State) : State × Answer := (s, plain .badValue)

/-- An MGMT frame of the console is delivered to the Management Engine (R8, R174). -/
def requestDelivered (f : Frame) (s : State) : State :=
  serve f.chan (Fin.ofNat 16 f.seq) ((requestParsed f.chan (payloadOf f)).getD unknownBody) s

/-! ### The way of a good frame (1.4) -/

/-- A good SENSE or SCAN frame is offered to its reader (R7). -/
def offerReaders (f : Frame) (s : State) : State :=
  match f.cls with
  | .sense => senseOffered f s
  | .scan => scanOffered f s
  | .command | .ack | .mgmt | .reply | .notice | .linkctl => s

/-- A good frame for the own node is delivered inside the hub (R8). -/
def deliverFrame (p : Port) (f : Frame) (s : State) : State :=
  match f.cls with
  | .mgmt => if f.src = s.bridge.consoleNode then requestDelivered f s
    else occur .mgmtForeign (onPort p (discard 1) s)
  | .ack => ackDelivered f s
  | .sense | .command | .reply | .notice | .scan | .linkctl => onPort p (discard 1) s

/-- A good frame that is not LINKCTL goes its way at a port in UP or SUSPECT (R7 to R9).  A FAULTSTOP
that its reading brings is entered before the frame is routed. -/
def handleFrame (p : Port) (f : Frame) (s : State) : State :=
  let s := settle (offerReaders f s)
  if f.dst = s.bridge.ownNode then deliverFrame p f s else routeFrame p f s

/-- A good frame at a port (R1, R6).  A LINKCTL frame of source 63, and a data frame in RETRAIN or
DOWN: DEDUCED, log entries 14 and 15. -/
def goodFrame (p : Port) (f : Frame) (s : State) : State :=
  let s := onPort p (fun r => { r with received := satInc r.received }) s
  if f.src = 63 then onPort p (discard 1) s
  else if f.cls = .linkctl then syncReceived p s
  else if carries (getPort s.bridge p) then handleFrame p f s
  else s

/-- A port takes in a frame (R1). -/
def frameArrives (p : Port) (clean : Bool) (l : List Byte) (s : State) : State :=
  match checkFrame clean l with
  | none => portError p s
  | some f => goodFrame p f s

end Sys2Proof.Machine
end

