-- ==== Sys2Proof/Machine/Resets.lean ====
section
/-! DEFINITION. The power-on reset and the control reset, block by block (R18, R19, R28, R29, R40, R41,
R62, R63, R84, R85, R99, R100, R122, R133, R143, R158, R159, R173, R185). -/

namespace Sys2Proof.Machine

/-! ### Power-on reset -/

/-- The archive after a power-on reset: ABSENT, or SCANNING with its directory to be found (R167,
R173). -/
def archivePowerOn (e : ArchiveEntry) : Archive :=
  if storedUsable e then .unscanned e .scanning (List.replicate e.count ⟨none, false⟩)
  else .unscanned e .absent []

/-- The flash after a program in progress was cut off (R173). -/
def cutProgram (s : State) : Flash :=
  if s.archive.program.isSome then
    (bufferImages s.archive).foldl (fun f x => unsettle s.marks f x.1) s.flash
  else s.flash

/-- A power-on reset: the archive entry, the flash, the job-key line and the commands that wait outside
are kept (log entries 39, 40 and 47). -/
def powerOn (s : State) : State :=
  { State.reset with
    archive := archivePowerOn s.archive.stored
    flash := cutProgram s
    jobKey := s.jobKey
    samples := s.samples
    marks := s.marks + 1
    pending := s.pending }

/-! ### Control reset -/

/-- The Intake Unit (R29). -/
def intakeControl (x : Intake) : Intake := { x with slots := .replicate 9 .reset }

/-- The Travel and Geometry Unit (R41). -/
def travelControl (t : Travel) : Travel :=
  withWidths { t with
    baseline := none
    motion := .stopped
    park := some (t.params.parkTime * 1000)
    heldLeft := 0
    heldRight := 0 }

/-- A sensor line (R63). -/
def lineControl (x : Line) : Line :=
  { x with vars := { LineVars.reset with
      lastRaw := x.vars.lastRaw
      lastResistance := x.vars.lastResistance } }

/-- The Resistance Measurement Unit (R63). -/
def rmuControl (r : Rmu) : Rmu :=
  let r := { abandonCount r with
    lines := r.lines.map lineControl
    sweepRef := none
    heldRef := none
    refAge := 0 }
  if r.sweepList = [] then r else beginCount 0 0 .first none r

/-- The Zone Heating Controller (R85). -/
def heatControl (h : Heat) : Heat :=
  ⟨h.zones.map fun x => { x with vars := .reset }, false, false, 0⟩

/-- The Power Budget Unit (R100): a supply found below a threshold in force begins to dip. -/
def powerControl (p : Power) : Power :=
  let dips := p.entry.select != 0 && p.below
  { p with
    sag := if dips then .dipping else .normal
    debounce := if dips then some p.entry.debounce else none
    recover := none
    records := p.records.map fun r => { r with
      demand := 0
      state := .disabled
      power := 0
      granted := 0
      alloc := 0
      shed := false } }

/-- The Engine Speed Voter (R100). -/
def voterControl (v : Voter) : Voter :=
  { v with
    heatInput := 0
    sagStarted := false
    heatRight := false
    feedInput := 0
    feedRight := false
    travelInput := 0
    travelRight := false
    requested := v.floor
    timer := none }

/-- The Levelling Controller (R122). -/
def levelControl (l : Level) : Level :=
  { l with
    left := { l.left with vars := .reset }
    right := { l.right with vars := .reset }
    motion := .stopped }

/-- The Feed Controller, with half the base width in force (R133). -/
def feedControl (half : Nat) (x : Feed) : Feed :=
  ⟨{ x.left with vars := .reset }, { x.right with vars := .reset }, .stopped, .config, half, half, half⟩

/-- A target (R143). -/
def targetControl (x : Target) : Target := targetAfter x.row x

/-- The Command Dispatcher (R143). -/
def dispControl (d : Dispatcher) : Dispatcher := ⟨d.targets.map targetControl, .config⟩

/-- The Mat Map Unit, its gap apart (R159). -/
def mapControl (half : Nat) (m : MatMap) : MatMap :=
  { m with
    row := none
    scan := none
    segs := .replicate 4 none
    window := none
    lastApplied := none
    cause := .controlReset
    motion := .stopped
    cLo := colLow half
    cHi := colHigh half
    hubMode := .config
    standing := 0 }

/-- The Management Engine (R175, R185). -/
def mgmtControl (m : Mgmt) : Mgmt :=
  { m with mode := .config, request := none, waitingReply := none, stopAsked := false }

/-- Whether a level kind holds by its owner's state after a control reset (R29, R63, R85, R100, R122,
R133, R143, R173). -/
def levelHolds (s : State) : CondKind → Bool
  | .linkADown => s.bridge.portA.state == .down
  | .linkBDown => s.bridge.portB.state == .down
  | .archiveFail => s.archive.state == .failed
  | .archiveFull => s.archive.state == .full
  | _ => false

/-- A condition entry (R185). -/
def entryControl (holds : Bool) (e : CondEntry) : CondEntry :=
  { e with active := e.active && holds, alarm := false, release := false }

/-- The Condition Log (R185). -/
def logControl (s : State) : CondLog :=
  let after := fun v k => upd v (condNum k) (entryControl (levelHolds s k))
  { s.log with entries := condKinds.foldl after s.log.entries }

/-- A control reset: every block's own, the Condition Log's last (DESIGN CHOICE, log entry 46). -/
def controlReset (s : State) : State :=
  let half := s.travel.params.baseWidth / 2
  let t := { s with
    intake := intakeControl s.intake
    travel := travelControl s.travel
    rmu := rmuControl s.rmu
    heat := heatControl s.heat
    power := powerControl s.power
    voter := voterControl s.voter
    level := levelControl s.level
    feed := feedControl half s.feed
    disp := dispControl s.disp
    mgmt := mgmtControl s.mgmt }
  let t := closeGap { t with map := mapControl half t.map }
  { t with log := logControl t, mgmt := mgmtControl t.mgmt }

end Sys2Proof.Machine
end

