-- ==== Sys2Proof/Machine/Clock.lean ====
section
/-! DEFINITION. Time: which internal events are due, and one millisecond's passing.  Step does one or
the other on an empty queue; no command of the table stands for a tick. -/

namespace Sys2Proof.Machine

/-! ### What is due -/

/-- A command that is due, as a list. -/
def ifDue (b : Bool) (c : Instr) : List Instr := if b then [c] else []

/-- The timers of a port that have run out. -/
def portDue (p : Port) (r : PortRec) : List Instr :=
  ifDue (timerDue r.windowTimer) (.windowTimerExpires p) ++
    ifDue (timerDue r.settle) (.settleTimerExpires p) ++
    ifDue (timerDue r.sync) (.syncTimerExpires p) ++
    ifDue (timerDue r.attempt) (.retrainAttemptEnds p) ++
    ifDue (timerDue r.retry) (.downRetryTimerExpires p)

/-- Whether a slot has reached its staleness limit (R26). -/
def slotDue (x : Slot) : Bool := fresh x.quality && decide (x.limit ≤ x.age)

/-- Whether a zone's temperature has reached its stale time (R70). -/
def zoneDue (x : Zone) : Bool := x.vars.temp.isSome && !x.vars.stale && decide (x.entry.staleTime ≤ x.vars.age)

/-- Whether a heater line's on-time has passed before the period's end (R79). -/
def onTimeDue (period elapsed : Nat) (x : Zone) : Bool :=
  x.vars.lineOn && decide (onTime period x.vars.periodDuty ≤ elapsed) &&
    decide (onTime period x.vars.periodDuty < period * 1000)

/-- The events of the heating side that are due. -/
def heatDue (s : State) : List Instr :=
  let period := s.power.entry.period
  ifDue (decide (period * 1000 ≤ s.heat.elapsed)) .heaterPeriodStart ++
    (List.finRange 16).flatMap (fun z =>
      ifDue (zoneDue s.heat.zones[z]) (.zoneStaleExpires z) ++
        ifDue (onTimeDue period s.heat.elapsed s.heat.zones[z]) (.heaterOnTimeEnds z)) ++
    ifDue (timerDue s.power.debounce) .debounceTimerExpires ++
    ifDue (timerDue s.power.recover) .recoverTimerExpires ++
    ifDue (timerDue s.voter.timer) .downDelayExpires

/-- The events of intake, travel, measurement, feed, commands and map that are due. -/
def controlDue (s : State) : List Instr :=
  (List.finRange 9).flatMap (fun i => ifDue (slotDue s.intake.slots[i]) (.slotStalenessExpires i)) ++
    ifDue (timerDue s.travel.park) .parkTimerExpires ++
    ifDue (s.rmu.counting.any fun c => timerDue c.limit) .periodLimitExpires ++
    (if timerDue s.rmu.gate then gateEnds s.marks s.rmu else []) ++
    ifDue (timerDue s.feed.left.vars.starve) (.starveTimerExpires .left) ++
    ifDue (timerDue s.feed.right.vars.starve) (.starveTimerExpires .right) ++
    (List.finRange 7).flatMap (fun t =>
      ifDue (timerDue s.disp.targets[t].vars.ackTimer) (.ackTimerExpires t)) ++
    ifDue (timerDue s.map.window) .assemblyWindowExpires

/-- Whether a port's freed place admits a waiting own frame (R16). -/
def admissionDue (s : State) (p : Port) : Bool :=
  (nextWaiter s p).isSome && placeFree (getPort s.bridge p)

/-- Whether the fetch in service can take its next step (R169). -/
def fetchDue (s : State) : Bool :=
  match fetchReady s with
  | some (_, f) => decide (f.last < f.next) || fetchYields s || canRead s.archive f
  | none => false

/-- Whether the control reset is due: the reply to RESET_CONTROL has left (R175). -/
def resetDue (m : Mgmt) : Bool := m.request.any fun r => r.kind == .reset true

/-- Whether the erase timer runs: it stands while the erase is suspended (11.4). -/
def eraseTimed (a : Archive) : Bool :=
  match a.erase with
  | .suspended _ _ => false
  | .idle | .erasing _ _ => true

/-- The events of the archive and the Management Engine that are due.  An erase timer that stands falls due
only when its erase goes on (R165). -/
def recordDue (s : State) : List Instr :=
  ifDue (timerDue s.archive.flush) .flushTimerExpires ++
    ifDue (timerDue s.archive.program) .programTimerExpires ++
    ifDue (eraseTimed s.archive && timerDue s.archive.eraseTimer) .eraseTimerExpires ++
    ifDue (canTake s.archive s.map.queue) .recordTaken ++
    ifDue (canProgram s) .programIssued ++
    ifDue (canErase s) .eraseIssued ++
    ifDue (fetchDue s) .fetchRecordRead ++
    ifDue (timerDue s.mgmt.second) .jobClockAdvance

/-- Every internal event that is due, in the model's order.  A frame being sent ends before the next
millisecond passes, since the longest takes 98 µs (1.1).  DESIGN CHOICE, log entries 3 and 13. -/
def dueEvents (s : State) : List Instr :=
  ifDue (resetDue s.mgmt) .controlReset ++
    ifDue (admissionDue s .A) (.waitingFrameAdmitted .A) ++
    ifDue (admissionDue s .B) (.waitingFrameAdmitted .B) ++
    ifDue s.bridge.portA.sending.isSome (.frameSendEnds .A) ++
    ifDue s.bridge.portB.sending.isSome (.frameSendEnds .B) ++
    portDue .A s.bridge.portA ++ portDue .B s.bridge.portB ++ controlDue s ++ heatDue s ++ recordDue s

/-! ### One millisecond -/

/-- A port. -/
def tickPort (r : PortRec) : PortRec :=
  { r with
    windowTimer := tickTimer r.windowTimer
    attempt := tickTimer r.attempt
    sync := tickTimer r.sync
    retry := tickTimer r.retry
    settle := tickTimer r.settle }

/-- A slot: an EMPTY slot does not age, and a STALE one ages on, to 65535 (R26). -/
def tickSlot (x : Slot) : Slot := if x.quality = .empty then x else { x with age := satInc x.age }

/-- A zone: the age runs while there is a temperature, stale or not, to 65535 (R67, R70).  That it stays at 0 until
the first refresh, where there is none and the source is not NONE, is DESIGN CHOICE, log entry 88. -/
def tickZone (x : Zone) : Zone :=
  if x.vars.temp.isSome then { x with vars := { x.vars with age := satInc x.vars.age } } else x

/-- A feed side. -/
def tickFeed (x : FeedSide) : FeedSide :=
  { x with vars := { x.vars with starve := tickTimer x.vars.starve } }

/-- A target. -/
def tickTarget (x : Target) : Target := { x with vars := { x.vars with ackTimer := tickTimer x.vars.ackTimer } }

/-- The archive. -/
def tickArchive (a : Archive) : Archive :=
  { a with
    flush := tickTimer a.flush
    program := tickTimer a.program
    eraseTimer := if eraseTimed a then tickTimer a.eraseTimer else a.eraseTimer }

/-- The running count. -/
def tickCounting (c : Counting) : Counting := { c with limit := tickTimer c.limit }

/-- One millisecond passes: every timer and every age moves, and nothing else. -/
def tick (s : State) : State :=
  { s with
    bridge := { s.bridge with portA := tickPort s.bridge.portA, portB := tickPort s.bridge.portB }
    intake := { s.intake with slots := s.intake.slots.map tickSlot }
    travel := { s.travel with park := tickTimer s.travel.park }
    rmu := { s.rmu with
      counting := s.rmu.counting.map tickCounting
      gate := tickTimer s.rmu.gate }
    heat := { s.heat with zones := s.heat.zones.map tickZone, elapsed := s.heat.elapsed + 1 }
    power := { s.power with
      debounce := tickTimer s.power.debounce
      recover := tickTimer s.power.recover }
    voter := { s.voter with timer := tickTimer s.voter.timer }
    feed := { s.feed with left := tickFeed s.feed.left, right := tickFeed s.feed.right }
    disp := { s.disp with targets := s.disp.targets.map tickTarget }
    map := { s.map with window := tickTimer s.map.window }
    archive := tickArchive s.archive
    mgmt := { s.mgmt with second := tickTimer s.mgmt.second } }

/-- What the hub does while no command waits: an internal event that is due becomes the next command,
or else a millisecond passes.  DESIGN CHOICE, log entry 2. -/
def idle (s : State) : State :=
  match dueEvents s with
  | c :: _ => { s with pending := [c] }
  | [] => tick s

end Sys2Proof.Machine
end

