-- ==== Sys2Proof/Machine/LinkEvents.lean ====
section
/-! DEFINITION. The meanings of the link's events: resets of power, arriving frames, the port timers, the
end of a sending and the admission of waiting frames. -/

namespace Sys2Proof.Machine

/-- A command's effect, ended by the FAULTSTOP entry that it may have asked for (R179). -/
def proceed (s : State) : Host.Outcome State Fault Refusal := .next (settle s)

/-- An event that acts while its condition holds, and else changes nothing.  DESIGN CHOICE, log
entry 1. -/
def whenever (b : Bool) (f : State → State) (s : State) : Host.Outcome State Fault Refusal :=
  if b then proceed (f s) else .next s

/-- POWER_ON_RESET (R18, R28, R40, R62, R84, R99, R122, R133, R143, R158, R167, R173, R185). -/
def execPowerOnReset (s : State) : Host.Outcome State Fault Refusal := .next (powerOn s)

/-- FRAME_RECEIVED (R1 to R9). -/
def execFrameReceived (port : Port) (clean : Bool) (bytes : List Byte) (s : State) :
    Host.Outcome State Fault Refusal := proceed (frameArrives port clean bytes s)

/-- WINDOW_TIMER_EXPIRES (R2).  The settle timer is left as it is: that a return to UP from SUSPECT does not
start it is DESIGN CHOICE, log entry 69. -/
def execWindowTimerExpires (port : Port) (s : State) : Host.Outcome State Fault Refusal :=
  whenever ((getPort s.bridge port).state == .suspect && (getPort s.bridge port).windowTimer.isSome)
    (onPort port fun r => { r with state := .up, window := 0, windowTimer := none }) s

/-- SYNC_TIMER_EXPIRES (R4, R5). -/
def execSyncTimerExpires (port : Port) (s : State) : Host.Outcome State Fault Refusal :=
  whenever (getPort s.bridge port).sync.isSome
    (onPort port fun r => { sendSync s.bridge.ownNode r with sync := some Config.syncTime }) s

/-- RETRAIN_ATTEMPT_ENDS (R4, R5). -/
def execRetrainAttemptEnds (port : Port) (s : State) : Host.Outcome State Fault Refusal :=
  whenever (getPort s.bridge port).attempt.isSome (attemptEnds port) s

/-- DOWN_RETRY_TIMER_EXPIRES (R5). -/
def execDownRetryTimerExpires (port : Port) (s : State) : Host.Outcome State Fault Refusal :=
  whenever ((getPort s.bridge port).state == .down && (getPort s.bridge port).retry.isSome)
    (onPort port fun r => beginAttempt { r with retry := some Config.downRetryTime }) s

/-- SETTLE_TIMER_EXPIRES (R4). -/
def execSettleTimerExpires (port : Port) (s : State) : Host.Outcome State Fault Refusal :=
  whenever (getPort s.bridge port).settle.isSome (onPort port fun r => { r with settle := none }) s

/-- FRAME_SEND_ENDS (R14). -/
def execFrameSendEnds (port : Port) (s : State) : Host.Outcome State Fault Refusal :=
  whenever (getPort s.bridge port).sending.isSome
    (onPort port fun r => kick { r with sending := none }) s

/-- WAITING_FRAME_ADMITTED (R16). -/
def execWaitingFrameAdmitted (port : Port) (s : State) : Host.Outcome State Fault Refusal :=
  proceed (admitWaiting port s)

end Sys2Proof.Machine
end

