-- ==== Sys2Proof/Machine/SensorEvents.lean ====
section
/-! DEFINITION. The meanings of the events of intake, travel and resistance measurement. -/

namespace Sys2Proof.Machine

/-- SLOT_STALENESS_EXPIRES (R26, R27). -/
def execSlotStalenessExpires (slot : Fin 9) (s : State) : Host.Outcome State Fault Refusal :=
  whenever (fresh s.intake.slots[slot].quality) (slotExpires slot) s

/-- PARK_TIMER_EXPIRES (R36, R37). -/
def execParkTimerExpires (s : State) : Host.Outcome State Fault Refusal :=
  whenever (s.travel.motion == .stopped && s.travel.park.isSome) (enterMotion .parked) s

/-- The running count ends with a number of edges or ticks, where it is one that `wanted` names; the
counter stops at 65535 (R46, R47). -/
def endCount (wanted : Counting → Bool) (ticks : Nat) (s : State) : State :=
  match s.rmu.counting with
  | some c => if wanted c then countEnds c (min ticks 65535) s else s
  | none => s

/-- REFERENCE_COUNT_ENDS (R48, R49). -/
def execReferenceCountEnds (ticks : Nat) (s : State) : Host.Outcome State Fault Refusal :=
  proceed (endCount (fun c => c.line == 0) ticks s)

/-- FIRST_COUNT_ENDS (R49 to R53, R55 to R58, R60). -/
def execFirstCountEnds (ticks : Nat) (s : State) : Host.Outcome State Fault Refusal :=
  proceed (endCount (fun c => c.line != 0 && c.phase == .first) ticks s)

/-- RETRY_COUNT_ENDS (R54 to R58, R60). -/
def execRetryCountEnds (ticks : Nat) (s : State) : Host.Outcome State Fault Refusal :=
  proceed (endCount (fun c => c.line != 0 && c.phase == .retry) ticks s)

/-- PERIOD_LIMIT_EXPIRES (R47): the missed count has the value 65535. -/
def execPeriodLimitExpires (s : State) : Host.Outcome State Fault Refusal :=
  proceed (endCount (fun c => c.limit.isSome) 65535 s)

end Sys2Proof.Machine
end

