-- ==== Sys2Proof/Machine/HeatEvents.lean ====
section
/-! DEFINITION. The meanings of the events of the zones, the heater lines, the supply and the engine
speed vote. -/

namespace Sys2Proof.Machine

/-- ZONE_STALE_EXPIRES (R70, R71).  Where it comes early, the age is put at the stale time: DESIGN CHOICE, log
entry 20. -/
def execZoneStaleExpires (zone : Fin 16) (s : State) : Host.Outcome State Fault Refusal :=
  whenever ((getZone s zone).vars.temp.isSome && !(getZone s zone).vars.stale)
    (fun s => reviewZone zone (modZone s zone fun x =>
      { x with vars := { x.vars with stale := true, age := max x.vars.age x.entry.staleTime } })) s

/-- HEATER_PERIOD_START (R79, R81). -/
def execHeaterPeriodStart (s : State) : Host.Outcome State Fault Refusal :=
  proceed { s with heat := { s.heat with
    elapsed := 0
    zones := s.heat.zones.map fun x => { x with vars := startPeriod s.mgmt.mode x.vars } } }

/-- HEATER_ON_TIME_ENDS (R79): a line on for its whole period has no such end. -/
def execHeaterOnTimeEnds (zone : Fin 16) (s : State) : Host.Outcome State Fault Refusal :=
  let t := onTime s.power.entry.period (getZone s zone).vars.periodDuty
  whenever ((getZone s zone).vars.lineOn && decide (t < s.power.entry.period * 1000))
    (fun s => modZoneVars { s with heat := { s.heat with elapsed := max s.heat.elapsed t } } zone
      fun v => { v with lineOn := false }) s

/-- SUPPLY_FALLS (R87): a comparator that is off gives no event. -/
def execSupplyFalls (s : State) : Host.Outcome State Fault Refusal :=
  whenever (s.power.entry.select != 0)
    (fun s => supplyFall { s with power := { s.power with below := true } }) s

/-- SUPPLY_RISES (R87). -/
def execSupplyRises (s : State) : Host.Outcome State Fault Refusal :=
  whenever (s.power.entry.select != 0)
    (fun s => supplyRise { s with power := { s.power with below := false } }) s

/-- DEBOUNCE_TIMER_EXPIRES (R87, R88). -/
def execDebounceTimerExpires (s : State) : Host.Outcome State Fault Refusal :=
  whenever (s.power.sag == .dipping && s.power.debounce.isSome)
    (fun s => sagChanged true (withSag .sag none none s)) s

/-- RECOVER_TIMER_EXPIRES (R87, R88). -/
def execRecoverTimerExpires (s : State) : Host.Outcome State Fault Refusal :=
  whenever (s.power.sag == .recovering && s.power.recover.isSome)
    (fun s => sagChanged false (withSag .normal none none s)) s

/-- DOWN_DELAY_EXPIRES (R96). -/
def execDownDelayExpires (s : State) : Host.Outcome State Fault Refusal :=
  whenever (s.mgmt.mode == .run && s.voter.timer.isSome)
    (fun s => requestLevel (resolvedLevel s.voter) (withTimer none s)) s

end Sys2Proof.Machine
end

