-- ==== Sys2Proof/Machine/ControlEvents.lean ====
section
/-! DEFINITION. The meanings of the job-key line's change and of the events of feed, command dispatch, the
mat map and the job clock. -/

namespace Sys2Proof.Machine

/-- JOB_KEY_CHANGE (R120): it acts only through later lock checks. -/
def execJobKeyChange (on : Bool) (s : State) : Host.Outcome State Fault Refusal :=
  proceed { s with jobKey := on }

/-- STARVE_TIMER_EXPIRES (R131). -/
def execStarveTimerExpires (side : Side) (s : State) : Host.Outcome State Fault Refusal :=
  whenever ((feedVars s side).state == .running && (feedVars s side).starve.isSome)
    (enterFeed side .starved) s

/-- The side whose valve a target is. -/
def valveSide (t : Fin 7) : Option Side :=
  match t with
  | 0 => some .left
  | 1 => some .right
  | _ => none

/-- The second try of a command times out, and a valve's side is told (R139, R110).  The order is
DESIGN CHOICE, log entry 26. -/
def lostCommand (t : Fin 7) (s : State) : State :=
  match valveSide t with
  | some d => levelLost d (loseCommand t s)
  | none => loseCommand t s

/-- A target's ACK timer expires (R138, R139). -/
def ackExpires (t : Fin 7) (s : State) : State :=
  match (getTarget s t).vars.outstanding with
  | some o => if o.tries = 1 then resendCommand t o s else lostCommand t s
  | none => s

/-- ACK_TIMER_EXPIRES (R138 to R140). -/
def execAckTimerExpires (target : Fin 7) (s : State) : Host.Outcome State Fault Refusal :=
  whenever (getTarget s target).vars.ackTimer.isSome (ackExpires target) s

/-- ASSEMBLY_WINDOW_EXPIRES (R146, R147). -/
def execAssemblyWindowExpires (s : State) : Host.Outcome State Fault Refusal :=
  whenever (s.map.window.isSome && s.map.scan.isSome)
    (fun s => occur .scanIncomplete { s with map := applyScan s.map }) s

/-- JOB_CLOCK_ADVANCE (R175). -/
def execJobClockAdvance (s : State) : Host.Outcome State Fault Refusal :=
  proceed { s with mgmt := { s.mgmt with
    jobClock := (s.mgmt.jobClock + 1) % 4294967296
    second := some 1000 } }

end Sys2Proof.Machine
end

