-- ==== Sys2Proof/Machine/FlashEvents.lean ====
section
/-! DEFINITION. The meanings of the archive's events (chapter 11). -/

namespace Sys2Proof.Machine

/-- RECORD_TAKEN (R161). -/
def execRecordTaken (s : State) : Host.Outcome State Fault Refusal :=
  whenever (canTake s.archive s.map.queue) takeRecord s

/-- FLUSH_TIMER_EXPIRES (R161). -/
def execFlushTimerExpires (s : State) : Host.Outcome State Fault Refusal :=
  whenever s.archive.flush.isSome
    (fun s => modArchive s fun a => { a with flush := none, programDue := true }) s

/-- PROGRAM_ISSUED (R162, R165). -/
def execProgramIssued (s : State) : Host.Outcome State Fault Refusal :=
  whenever (canProgram s) (fun s => modArchive s issueProgram) s

/-- PROGRAM_COMPLETE (R162, R164, R171). -/
def execProgramComplete (s : State) : Host.Outcome State Fault Refusal :=
  whenever s.archive.program.isSome programCompletes s

/-- PROGRAM_TIMER_EXPIRES (R163). -/
def execProgramTimerExpires (s : State) : Host.Outcome State Fault Refusal :=
  whenever s.archive.program.isSome programFails s

/-- A decided erase is issued. -/
def issueDueErase (s : State) : State :=
  match s.archive.eraseDue with
  | some j => issueErase j s
  | none => s

/-- ERASE_ISSUED (R165). -/
def execEraseIssued (s : State) : Host.Outcome State Fault Refusal :=
  whenever (canErase s) issueDueErase s

/-- ERASE_COMPLETE (R164, R165, R170). -/
def execEraseComplete (s : State) : Host.Outcome State Fault Refusal := proceed (eraseCompletes s)

/-- ERASE_TIMER_EXPIRES (R163, R165, R170). -/
def execEraseTimerExpires (s : State) : Host.Outcome State Fault Refusal :=
  whenever (s.archive.eraseTimer.isSome && eraseTimed s.archive) eraseFails s

/-- ARCHIVE_SCAN_ENDS (R167, R168). -/
def execArchiveScanEnds (s : State) : Host.Outcome State Fault Refusal :=
  whenever (s.archive.state == .scanning) scanEnds s

/-- FETCH_RECORD_READ (R169). -/
def execFetchRecordRead (s : State) : Host.Outcome State Fault Refusal := proceed (fetchStep s)

end Sys2Proof.Machine
end

