-- ==== Sys2Proof/Machine/ReadRequests.lean ====
section
/-! DEFINITION. The meanings of the requests that read. -/

namespace Sys2Proof.Machine

/-- A request's service as a command's effect; its own FAULTSTOP entry is part of the service. -/
def served (code : Nat) (seq : Seq) (body : State → State × Answer) (s : State) :
    Host.Outcome State Fault Refusal := .next (serve code seq body s)

/-- UNKNOWN_REQUEST (R174). -/
def execUnknownRequest (seq : Seq) (code : Byte) (s : State) : Host.Outcome State Fault Refusal :=
  served code.toNat seq unknownBody s

/-- STATUS (R175). -/
def execStatus (seq : Seq) (part : Nat) (s : State) : Host.Outcome State Fault Refusal :=
  served 1 seq (reading (statusPart · part)) s

/-- READ_ENTRY (R176). -/
def execReadEntry (seq : Seq) (table index : Nat) (s : State) : Host.Outcome State Fault Refusal :=
  served 2 seq (entryRead table index) s

/-- READ_SLOT (2.1). -/
def execReadSlot (seq : Seq) (slot : Nat) (s : State) : Host.Outcome State Fault Refusal :=
  served 4 seq (reading (slotFields slot)) s

/-- READ_ZONE (R83). -/
def execReadZone (seq : Seq) (zone : Nat) (s : State) : Host.Outcome State Fault Refusal :=
  served 5 seq (reading (zoneFields zone)) s

/-- READ_SIDE (R121). -/
def execReadSide (seq : Seq) (side : Option Side) (s : State) : Host.Outcome State Fault Refusal :=
  served 6 seq (reading (sideFields side)) s

/-- READ_FEED (R132). -/
def execReadFeed (seq : Seq) (side : Option Side) (s : State) : Host.Outcome State Fault Refusal :=
  served 7 seq (reading (feedFields side)) s

/-- READ_LINE (R61). -/
def execReadLine (seq : Seq) (line : Nat) (s : State) : Host.Outcome State Fault Refusal :=
  served 8 seq (reading (lineFields line)) s

/-- READ_TARGET (R142). -/
def execReadTarget (seq : Seq) (row : Nat) (s : State) : Host.Outcome State Fault Refusal :=
  served 9 seq (reading (targetFields row)) s

end Sys2Proof.Machine
end

