-- ==== Sys2Proof/Machine/WriteRequests.lean ====
section
/-! DEFINITION. The meanings of the table writes: WRITE_ENTRY, table by table. -/

namespace Sys2Proof.Machine

/-- The request code of WRITE_ENTRY (12.1). -/
def writeEntryCode : Nat := 3

/-- WRITE_NODE_ENTRY (R10). -/
def execWriteNodeEntry (seq : Seq) (index : Nat) (fields : NodeWrite) (s : State) :
    Host.Outcome State Fault Refusal := served writeEntryCode seq (nodeBody index fields) s

/-- WRITE_OWN_CONSOLE_NODE (R176, R10). -/
def execWriteOwnConsoleNode (seq : Seq) (own console : Nat) (s : State) :
    Host.Outcome State Fault Refusal := served writeEntryCode seq (pairBody own console) s

/-- WRITE_FILTER_ENTRY (R11). -/
def execWriteFilterEntry (seq : Seq) (index : Nat) (fields : FilterWrite) (s : State) :
    Host.Outcome State Fault Refusal := served writeEntryCode seq (filterBody index fields) s

/-- WRITE_INTAKE_ENTRY (R20, R27). -/
def execWriteIntakeEntry (seq : Seq) (index : Nat) (fields : IntakeEntry) (s : State) :
    Host.Outcome State Fault Refusal := served writeEntryCode seq (intakeBody index fields) s

/-- WRITE_SENSOR_ENTRY (R42). -/
def execWriteSensorEntry (seq : Seq) (index : Nat) (fields : SensorEntry) (s : State) :
    Host.Outcome State Fault Refusal := served writeEntryCode seq (sensorBody index fields) s

/-- WRITE_REFERENCE_ENTRY (R43). -/
def execWriteReferenceEntry (seq : Seq) (fields : ReferenceWrite) (s : State) :
    Host.Outcome State Fault Refusal := served writeEntryCode seq (referenceBody fields) s

/-- WRITE_SWEEP_LIST (R44, R45). -/
def execWriteSweepList (seq : Seq) (index : Nat) (lines : List Nat) (s : State) :
    Host.Outcome State Fault Refusal := served writeEntryCode seq (sweepBody index lines) s

/-- WRITE_TRAVEL_PARAMETERS (R30, R38). -/
def execWriteTravelParameters (seq : Seq) (index : Nat) (fields : TravelParams) (s : State) :
    Host.Outcome State Fault Refusal := served writeEntryCode seq (travelBody index fields) s

/-- WRITE_ZONE_ENTRY (R64, R65). -/
def execWriteZoneEntry (seq : Seq) (index : Nat) (fields : ZoneEntry) (s : State) :
    Host.Outcome State Fault Refusal := served writeEntryCode seq (zoneBody index fields) s

/-- WRITE_BUDGET (R82, R86, R89). -/
def execWriteBudget (seq : Seq) (index : Nat) (fields : BudgetEntry) (s : State) :
    Host.Outcome State Fault Refusal := served writeEntryCode seq (budgetBody index fields) s

/-- WRITE_VOTE_TABLE (R93, R97). -/
def execWriteVoteTable (seq : Seq) (index : Nat) (fields : VoteFields) (s : State) :
    Host.Outcome State Fault Refusal := served writeEntryCode seq (voteBody index fields) s

/-- WRITE_LEVELLING_ENTRY (R101). -/
def execWriteLevellingEntry (seq : Seq) (index : Nat) (fields : LevelEntry) (s : State) :
    Host.Outcome State Fault Refusal := served writeEntryCode seq (levelBody index fields) s

/-- WRITE_PROFILE_ENTRY (R116, R119, R120). -/
def execWriteProfileEntry (seq : Seq) (index : Nat) (fields : ProfileEntry) (s : State) :
    Host.Outcome State Fault Refusal := served writeEntryCode seq (profileBody index fields) s

/-- WRITE_PROTECTION_ENTRY (R120). -/
def execWriteProtectionEntry (seq : Seq) (index : Nat) (fields : ProtectionWrite) (s : State) :
    Host.Outcome State Fault Refusal := served writeEntryCode seq (protectionBody index fields) s

/-- WRITE_FEED_ENTRY (R123). -/
def execWriteFeedEntry (seq : Seq) (index : Nat) (fields : FeedEntry) (s : State) :
    Host.Outcome State Fault Refusal := served writeEntryCode seq (feedBody index fields) s

/-- WRITE_TARGET_ROW (R134, R140). -/
def execWriteTargetRow (seq : Seq) (index : Nat) (fields : TargetRow) (s : State) :
    Host.Outcome State Fault Refusal := served writeEntryCode seq (targetBody index fields) s

/-- WRITE_MAP_ENTRY (R144). -/
def execWriteMapEntry (seq : Seq) (index : Nat) (fields : MapEntry) (s : State) :
    Host.Outcome State Fault Refusal := served writeEntryCode seq (mapBody index fields) s

/-- WRITE_ARCHIVE_ENTRY (R160, R166). -/
def execWriteArchiveEntry (seq : Seq) (index : Nat) (fields : ArchiveWrite) (s : State) :
    Host.Outcome State Fault Refusal := served writeEntryCode seq (archiveBody index fields) s

/-- WRITE_CONDITION_SEVERITY (R179, R184). -/
def execWriteConditionSeverity (seq : Seq) (index : Nat) (severity : Option Severity) (s : State) :
    Host.Outcome State Fault Refusal := served writeEntryCode seq (severityBody index severity) s

end Sys2Proof.Machine
end

