-- ==== Sys2Proof/Machine/ActionRequests.lean ====
section
/-! DEFINITION. The meanings of the remaining requests and of the control reset. -/

namespace Sys2Proof.Machine

/-- SET_MODE with the function HEAT (R66). -/
def execSetModeHeat (seq : Seq) (on : Option Bool) (s : State) : Host.Outcome State Fault Refusal :=
  served 10 seq (heatBody on) s

/-- SET_MODE with the function LEVEL_L or LEVEL_R (R102, R13). -/
def execSetModeLevel (seq : Seq) (side : Side) (mode : Option LevelMode) (s : State) : Host.Outcome State Fault Refusal :=
  served 10 seq (levelModeBody side mode) s

/-- SET_MODE with the function FEED_L or FEED_R (R125, R13). -/
def execSetModeFeed (seq : Seq) (side : Side) (mode : Option FeedMode) (s : State) : Host.Outcome State Fault Refusal :=
  served 10 seq (feedModeBody side mode) s

/-- RUN (R177 to R179). -/
def execRun (seq : Seq) (s : State) : Host.Outcome State Fault Refusal :=
  served 11 seq runBody s

/-- STOP (R177). -/
def execStop (seq : Seq) (s : State) : Host.Outcome State Fault Refusal :=
  served 12 seq stopBody s

/-- RESUME (R177). -/
def execResume (seq : Seq) (s : State) : Host.Outcome State Fault Refusal :=
  served 13 seq resumeBody s

/-- SET_STATION (R34). -/
def execSetStation (seq : Seq) (station : BitVec 32) (s : State) : Host.Outcome State Fault Refusal :=
  served 14 seq (stationBody station) s

/-- SET_CLOCK (R175). -/
def execSetClock (seq : Seq) (clock : BitVec 32) (s : State) : Host.Outcome State Fault Refusal :=
  served 15 seq (clockBody clock) s

/-- MARK (R156). -/
def execMark (seq : Seq) (code : BitVec 16) (s : State) : Host.Outcome State Fault Refusal :=
  served 16 seq (markBody code) s

/-- FETCH (R169). -/
def execFetch (seq : Seq) (first count : Nat) (s : State) : Host.Outcome State Fault Refusal :=
  served 17 seq (fetchBody first count) s

/-- FORMAT (R170). -/
def execFormat (seq : Seq) (s : State) : Host.Outcome State Fault Refusal :=
  served 18 seq formatBody s

/-- CLEAR_CONDITION (R183). -/
def execClearCondition (seq : Seq) (kind : Nat) (s : State) : Host.Outcome State Fault Refusal :=
  served 19 seq (conditionBody kind) s

/-- CLEAR_LINE (R59). -/
def execClearLine (seq : Seq) (line : Nat) (s : State) : Host.Outcome State Fault Refusal :=
  served 20 seq (lineBody line) s

/-- RESET_CONTROL (R175). -/
def execResetControl (seq : Seq) (s : State) : Host.Outcome State Fault Refusal :=
  served 21 seq resetBody s

/-- CONTROL_RESET (R19, R29, R41, R63, R85, R100, R122, R133, R143, R159, R173, R175, R185).  That it acts
whenever it is given is DESIGN CHOICE, log entry 85. -/
def execControlReset (s : State) : Host.Outcome State Fault Refusal := .next (controlReset s)

end Sys2Proof.Machine
end

