-- ==== Sys2Proof/Machine/Dispatch.lean ====
section
/-! DEFINITION. One arm per command: the direct call of its meaning. -/

namespace Sys2Proof.Machine

def exec (i : Instr) (s : State) : Host.Outcome State Fault Refusal :=
  match i with
  | .powerOnReset => Sys2Proof.Machine.execPowerOnReset s
  | .frameReceived port clean bytes => Sys2Proof.Machine.execFrameReceived port clean bytes s
  | .windowTimerExpires port => Sys2Proof.Machine.execWindowTimerExpires port s
  | .syncTimerExpires port => Sys2Proof.Machine.execSyncTimerExpires port s
  | .retrainAttemptEnds port => Sys2Proof.Machine.execRetrainAttemptEnds port s
  | .downRetryTimerExpires port => Sys2Proof.Machine.execDownRetryTimerExpires port s
  | .settleTimerExpires port => Sys2Proof.Machine.execSettleTimerExpires port s
  | .frameSendEnds port => Sys2Proof.Machine.execFrameSendEnds port s
  | .waitingFrameAdmitted port => Sys2Proof.Machine.execWaitingFrameAdmitted port s
  | .slotStalenessExpires slot => Sys2Proof.Machine.execSlotStalenessExpires slot s
  | .parkTimerExpires => Sys2Proof.Machine.execParkTimerExpires s
  | .referenceCountEnds ticks => Sys2Proof.Machine.execReferenceCountEnds ticks s
  | .firstCountEnds ticks => Sys2Proof.Machine.execFirstCountEnds ticks s
  | .retryCountEnds ticks => Sys2Proof.Machine.execRetryCountEnds ticks s
  | .periodLimitExpires => Sys2Proof.Machine.execPeriodLimitExpires s
  | .zoneStaleExpires zone => Sys2Proof.Machine.execZoneStaleExpires zone s
  | .heaterPeriodStart => Sys2Proof.Machine.execHeaterPeriodStart s
  | .heaterOnTimeEnds zone => Sys2Proof.Machine.execHeaterOnTimeEnds zone s
  | .supplyFalls => Sys2Proof.Machine.execSupplyFalls s
  | .supplyRises => Sys2Proof.Machine.execSupplyRises s
  | .debounceTimerExpires => Sys2Proof.Machine.execDebounceTimerExpires s
  | .recoverTimerExpires => Sys2Proof.Machine.execRecoverTimerExpires s
  | .downDelayExpires => Sys2Proof.Machine.execDownDelayExpires s
  | .jobKeyChange on => Sys2Proof.Machine.execJobKeyChange on s
  | .starveTimerExpires side => Sys2Proof.Machine.execStarveTimerExpires side s
  | .ackTimerExpires target => Sys2Proof.Machine.execAckTimerExpires target s
  | .assemblyWindowExpires => Sys2Proof.Machine.execAssemblyWindowExpires s
  | .recordTaken => Sys2Proof.Machine.execRecordTaken s
  | .flushTimerExpires => Sys2Proof.Machine.execFlushTimerExpires s
  | .programIssued => Sys2Proof.Machine.execProgramIssued s
  | .programComplete => Sys2Proof.Machine.execProgramComplete s
  | .programTimerExpires => Sys2Proof.Machine.execProgramTimerExpires s
  | .eraseIssued => Sys2Proof.Machine.execEraseIssued s
  | .eraseComplete => Sys2Proof.Machine.execEraseComplete s
  | .eraseTimerExpires => Sys2Proof.Machine.execEraseTimerExpires s
  | .archiveScanEnds => Sys2Proof.Machine.execArchiveScanEnds s
  | .fetchRecordRead => Sys2Proof.Machine.execFetchRecordRead s
  | .jobClockAdvance => Sys2Proof.Machine.execJobClockAdvance s
  | .unknownRequest seq code => Sys2Proof.Machine.execUnknownRequest seq code s
  | .status seq part => Sys2Proof.Machine.execStatus seq part s
  | .readEntry seq table index => Sys2Proof.Machine.execReadEntry seq table index s
  | .readSlot seq slot => Sys2Proof.Machine.execReadSlot seq slot s
  | .readZone seq zone => Sys2Proof.Machine.execReadZone seq zone s
  | .readSide seq side => Sys2Proof.Machine.execReadSide seq side s
  | .readFeed seq side => Sys2Proof.Machine.execReadFeed seq side s
  | .readLine seq line => Sys2Proof.Machine.execReadLine seq line s
  | .readTarget seq row => Sys2Proof.Machine.execReadTarget seq row s
  | .writeNodeEntry seq index fields => Sys2Proof.Machine.execWriteNodeEntry seq index fields s
  | .writeOwnConsoleNode seq own console => Sys2Proof.Machine.execWriteOwnConsoleNode seq own console s
  | .writeFilterEntry seq index fields => Sys2Proof.Machine.execWriteFilterEntry seq index fields s
  | .writeIntakeEntry seq index fields => Sys2Proof.Machine.execWriteIntakeEntry seq index fields s
  | .writeSensorEntry seq index fields => Sys2Proof.Machine.execWriteSensorEntry seq index fields s
  | .writeReferenceEntry seq fields => Sys2Proof.Machine.execWriteReferenceEntry seq fields s
  | .writeSweepList seq index lines => Sys2Proof.Machine.execWriteSweepList seq index lines s
  | .writeTravelParameters seq index fields => Sys2Proof.Machine.execWriteTravelParameters seq index fields s
  | .writeZoneEntry seq index fields => Sys2Proof.Machine.execWriteZoneEntry seq index fields s
  | .writeBudget seq index fields => Sys2Proof.Machine.execWriteBudget seq index fields s
  | .writeVoteTable seq index fields => Sys2Proof.Machine.execWriteVoteTable seq index fields s
  | .writeLevellingEntry seq index fields => Sys2Proof.Machine.execWriteLevellingEntry seq index fields s
  | .writeProfileEntry seq index fields => Sys2Proof.Machine.execWriteProfileEntry seq index fields s
  | .writeProtectionEntry seq index fields => Sys2Proof.Machine.execWriteProtectionEntry seq index fields s
  | .writeFeedEntry seq index fields => Sys2Proof.Machine.execWriteFeedEntry seq index fields s
  | .writeTargetRow seq index fields => Sys2Proof.Machine.execWriteTargetRow seq index fields s
  | .writeMapEntry seq index fields => Sys2Proof.Machine.execWriteMapEntry seq index fields s
  | .writeArchiveEntry seq index fields => Sys2Proof.Machine.execWriteArchiveEntry seq index fields s
  | .writeConditionSeverity seq index severity => Sys2Proof.Machine.execWriteConditionSeverity seq index severity s
  | .setModeHeat seq on => Sys2Proof.Machine.execSetModeHeat seq on s
  | .setModeLevel seq side mode => Sys2Proof.Machine.execSetModeLevel seq side mode s
  | .setModeFeed seq side mode => Sys2Proof.Machine.execSetModeFeed seq side mode s
  | .run seq => Sys2Proof.Machine.execRun seq s
  | .stop seq => Sys2Proof.Machine.execStop seq s
  | .resume seq => Sys2Proof.Machine.execResume seq s
  | .setStation seq station => Sys2Proof.Machine.execSetStation seq station s
  | .setClock seq clock => Sys2Proof.Machine.execSetClock seq clock s
  | .mark seq code => Sys2Proof.Machine.execMark seq code s
  | .fetch seq first count => Sys2Proof.Machine.execFetch seq first count s
  | .format seq => Sys2Proof.Machine.execFormat seq s
  | .clearCondition seq kind => Sys2Proof.Machine.execClearCondition seq kind s
  | .clearLine seq line => Sys2Proof.Machine.execClearLine seq line s
  | .resetControl seq => Sys2Proof.Machine.execResetControl seq s
  | .controlReset => Sys2Proof.Machine.execControlReset s

end Sys2Proof.Machine
end

