-- ==== Sys2Proof/Safety.lean ====
section
/-! DEFINITION. The terms that claims use: the parts of the state, what it is for a change to stay
within some of them, and the invariants of the hub. -/

namespace Sys2Proof.Machine

/-! ### Parts of the state -/

/-- The parts into which claims divide the state. -/
inductive Part
  | ports | nodes | nodePair | filters
  | intakeTable | slots
  | travelParams | position | motion | widths
  | refEntry | sensorTable | sweepList | lineStates | counting
  | zoneTable | zoneStates | heatMaster | heatRights | heatTimer
  | budget | sag | allocation
  | voteTables | voteInputs | requested
  | levelTable | levelSides | levelMotion | profile | protection
  | feedTable | feedSides | feedCopies
  | targetRows | targetStates | dispMode
  | mapEntry | scan | row | records | mapCopies
  | archiveEntry | archive | flash
  | hubMode | request | clock | stopAsked
  | severities | conditions | notices
  | jobKey | samples | marks | pending
  deriving DecidableEq, Repr

/-- Two states agree in a part. -/
def Part.same (s t : State) : Part → Prop
  | .ports => t.bridge.portA = s.bridge.portA ∧ t.bridge.portB = s.bridge.portB
  | .nodes => t.bridge.nodes = s.bridge.nodes
  | .nodePair => t.bridge.ownNode = s.bridge.ownNode ∧ t.bridge.consoleNode = s.bridge.consoleNode
  | .filters => t.bridge.filters = s.bridge.filters
  | .intakeTable => t.intake.entries = s.intake.entries
  | .slots => t.intake.slots = s.intake.slots
  | .travelParams => t.travel.params = s.travel.params
  | .position => t.travel.station = s.travel.station ∧ t.travel.highWater = s.travel.highWater ∧
      t.travel.baseline = s.travel.baseline
  | .motion => t.travel.motion = s.travel.motion ∧ t.travel.park = s.travel.park
  | .widths => t.travel.heldLeft = s.travel.heldLeft ∧ t.travel.heldRight = s.travel.heldRight ∧
      t.travel.leftHalf = s.travel.leftHalf ∧ t.travel.rightHalf = s.travel.rightHalf ∧
      t.travel.cLo = s.travel.cLo ∧ t.travel.cHi = s.travel.cHi
  | .refEntry => t.rmu.ref = s.rmu.ref
  | .sensorTable => t.rmu.lines.map (·.entry) = s.rmu.lines.map (·.entry)
  | .sweepList => t.rmu.sweepList = s.rmu.sweepList
  | .lineStates => t.rmu.lines.map (·.vars) = s.rmu.lines.map (·.vars)
  | .counting => t.rmu.counting = s.rmu.counting ∧ t.rmu.sweepRef = s.rmu.sweepRef ∧
      t.rmu.lastRef = s.rmu.lastRef ∧ t.rmu.heldRef = s.rmu.heldRef ∧ t.rmu.refAge = s.rmu.refAge ∧
      t.rmu.gate = s.rmu.gate ∧ t.rmu.counts = s.rmu.counts
  | .zoneTable => t.heat.zones.map (·.entry) = s.heat.zones.map (·.entry)
  | .zoneStates => t.heat.zones.map (·.vars) = s.heat.zones.map (·.vars)
  | .heatMaster => t.heat.master = s.heat.master
  | .heatRights => t.heat.rights = s.heat.rights
  | .heatTimer => t.heat.elapsed = s.heat.elapsed
  | .budget => t.power.entry = s.power.entry
  | .sag => t.power.sag = s.power.sag ∧ t.power.debounce = s.power.debounce ∧
      t.power.recover = s.power.recover ∧ t.power.below = s.power.below
  | .allocation => t.power.records = s.power.records
  | .voteTables => t.voter.heating = s.voter.heating ∧ t.voter.feed = s.voter.feed ∧
      t.voter.travel = s.voter.travel ∧ t.voter.floor = s.voter.floor ∧
      t.voter.downDelay = s.voter.downDelay
  | .voteInputs => t.voter.heatInput = s.voter.heatInput ∧ t.voter.sagStarted = s.voter.sagStarted ∧
      t.voter.heatRight = s.voter.heatRight ∧ t.voter.feedInput = s.voter.feedInput ∧
      t.voter.feedRight = s.voter.feedRight ∧ t.voter.travelInput = s.voter.travelInput ∧
      t.voter.travelRight = s.voter.travelRight
  | .requested => t.voter.requested = s.voter.requested ∧ t.voter.timer = s.voter.timer
  | .levelTable => t.level.left.entry = s.level.left.entry ∧ t.level.right.entry = s.level.right.entry
  | .levelSides => t.level.left.vars = s.level.left.vars ∧ t.level.right.vars = s.level.right.vars
  | .levelMotion => t.level.motion = s.level.motion
  | .profile => t.level.profile = s.level.profile
  | .protection => t.level.protection = s.level.protection
  | .feedTable => t.feed.left.entry = s.feed.left.entry ∧ t.feed.right.entry = s.feed.right.entry
  | .feedSides => t.feed.left.vars = s.feed.left.vars ∧ t.feed.right.vars = s.feed.right.vars
  | .feedCopies => t.feed.motion = s.feed.motion ∧ t.feed.hubMode = s.feed.hubMode ∧
      t.feed.leftHalf = s.feed.leftHalf ∧ t.feed.rightHalf = s.feed.rightHalf ∧
      t.feed.baseHalf = s.feed.baseHalf
  | .targetRows => t.disp.targets.map (·.row) = s.disp.targets.map (·.row)
  | .targetStates => t.disp.targets.map (fun x => (x.vars, x.waiting)) =
      s.disp.targets.map (fun x => (x.vars, x.waiting))
  | .dispMode => t.disp.hubMode = s.disp.hubMode
  | .mapEntry => t.map.entry = s.map.entry
  | .scan => t.map.scan = s.map.scan ∧ t.map.segs = s.map.segs ∧ t.map.window = s.map.window ∧
      t.map.lastApplied = s.map.lastApplied ∧ t.map.ignored = s.map.ignored ∧
      t.map.taken = s.map.taken ∧ t.map.notTaken = s.map.notTaken
  | .row => t.map.row = s.map.row
  | .records => t.map.queue = s.map.queue ∧ t.map.gap = s.map.gap
  | .mapCopies => t.map.cause = s.map.cause ∧ t.map.station = s.map.station ∧
      t.map.highWater = s.map.highWater ∧ t.map.motion = s.map.motion ∧ t.map.cLo = s.map.cLo ∧
      t.map.cHi = s.map.cHi ∧ t.map.hubMode = s.map.hubMode ∧ t.map.standing = s.map.standing
  | .archiveEntry => t.archive.stored = s.archive.stored
  | .archive => { t.archive with stored := .factory } = { s.archive with stored := .factory }
  | .flash => t.flash = s.flash
  | .hubMode => t.mgmt.mode = s.mgmt.mode
  | .request => t.mgmt.request = s.mgmt.request ∧ t.mgmt.waitingReply = s.mgmt.waitingReply ∧
      t.mgmt.lastBusy = s.mgmt.lastBusy
  | .clock => t.mgmt.jobClock = s.mgmt.jobClock ∧ t.mgmt.second = s.mgmt.second
  | .stopAsked => t.mgmt.stopAsked = s.mgmt.stopAsked
  | .severities => t.log.entries.map (·.severity) = s.log.entries.map (·.severity)
  | .conditions => t.log.entries = s.log.entries
  | .notices => t.log.waiting = s.log.waiting ∧ t.log.noticeCount = s.log.noticeCount
  | .jobKey => t.jobKey = s.jobKey
  | .samples => t.samples = s.samples
  | .marks => t.marks = s.marks
  | .pending => t.pending = s.pending

/-- From `s` to `t` nothing changes but the parts listed. -/
def Only (l : List Part) (s t : State) : Prop := ∀ p, p ∉ l → p.same s t

/-- What an occurrence of a condition may change (R179 to R182). -/
def logParts : List Part := [.ports, .conditions, .notices, .stopAsked]

/-- What a submission to a target may change (R135, R136), with TARGET_LOST and TARGET_REJECT. -/
def commandParts : List Part := .targetStates :: logParts

/-- What a report to the Engine Speed Voter may change (R94 to R97). -/
def voteParts : List Part := [.voteInputs, .requested, .targetStates, .ports]

/-- What an allocation may change (R90 to R92). -/
def allocParts : List Part :=
  .allocation :: .zoneStates :: .row :: .mapCopies :: .voteInputs :: .requested :: commandParts

/-- What a zone's evaluation may change (R71 to R75, R90 to R92). -/
def zoneParts : List Part := .heatRights :: allocParts

/-- What a levelling side's moves may change (7.2, 7.3). -/
def levelParts : List Part := .levelSides :: .row :: .mapCopies :: commandParts

/-- What a feed side's moves may change (8.3). -/
def feedParts : List Part := .feedSides :: .row :: .mapCopies :: .voteInputs :: .requested :: commandParts

/-- What a record offered to the queue may change (R154, R155). -/
def recordParts : List Part := .records :: logParts

/-- What a row's close may change (R150 to R153). -/
def rowParts : List Part := .records :: zoneParts

/-- What a SCAN frame may change (R145 to R147). -/
def scanParts : List Part := .scan :: .row :: logParts

/-- What a station report may change (R33). -/
def stationParts : List Part := .levelSides :: rowParts

/-- What a motion report may change (R37). -/
def motionParts : List Part := .levelSides :: .levelMotion :: .feedSides :: .feedCopies :: zoneParts

/-- What a geometry report may change (R38). -/
def widthParts : List Part := .feedSides :: .feedCopies :: zoneParts

/-- What the consumers of slots may change (R25, R26). -/
def consumerParts : List Part :=
  .position :: .motion :: .widths :: .levelSides :: .levelMotion :: .feedSides :: .feedCopies :: rowParts

/-- What a SENSE frame's reading may change (R21 to R27). -/
def senseParts : List Part := .slots :: .intakeTable :: consumerParts

/-- What the end of a count may change (R45 to R60). -/
def countParts : List Part := .counting :: .lineStates :: zoneParts

/-- What the archive's moves may change (chapter 11). -/
def archiveParts : List Part := .archive :: logParts

/-- What the end of a program may change (R162, R163). -/
def programParts : List Part := .flash :: .marks :: archiveParts

/-- What a change of hub mode may change (R177). -/
def modeParts : List Part :=
  .hubMode :: .levelSides :: .feedSides :: .feedCopies :: .dispMode :: .records :: zoneParts

/-- What the answer to a request may change (R174). -/
def answerParts : List Part := [.ports, .request]

/-- The parts in which no table of 12.2 stands. -/
def notTable : Part → Bool
  | .nodes | .nodePair | .filters | .intakeTable | .travelParams | .refEntry | .sensorTable
  | .sweepList | .zoneTable | .budget | .voteTables | .levelTable | .profile | .protection
  | .feedTable | .targetRows | .mapEntry | .archiveEntry | .severities => false
  | _ => true

/-! ### Invariants -/

/-- A port's queue holds at most 16 frames, at most 12 of them pass-through (R15). -/
def portBounded (r : PortRec) : Prop :=
  depth r ≤ Config.queuePlaces ∧ passCount r ≤ Config.passPlaces

/-- Both output queues are within their bounds (R15). -/
def QueuesBounded (s : State) : Prop := portBounded s.bridge.portA ∧ portBounded s.bridge.portB

/-- No FAULTSTOP request stands: between commands there is none, since each command acts on its
own. -/
def StopSettled (s : State) : Prop := s.mgmt.stopAsked = false

/-- Behind a closed guard, no frame that it had passed is queued or being sent (R12, R13). -/
def GuardsClear (s : State) : Prop :=
  ∀ g, guardClosed s g = true →
    markedCount g s.bridge.portA = 0 ∧ markedCount g s.bridge.portB = 0

/-- A heater line that is held off is off (R81). -/
def HeldLinesOff (s : State) : Prop :=
  ∀ z : Fin 16, heldOff s.mgmt.mode s.heat.zones[z].vars = true → s.heat.zones[z].vars.lineOn = false

/-- A target's command state is whole (9.2): a value is pending only behind an outstanding command, and
an outstanding command's frame either waits for admission or its ACK timer runs. -/
def targetWhole (x : Target) : Prop :=
  match x.vars.outstanding with
  | some _ => (x.waiting = none ∧ x.vars.ackTimer ≠ none) ∨ (x.waiting ≠ none ∧ x.vars.ackTimer = none)
  | none => x.vars.pending = none ∧ x.waiting = none ∧ x.vars.ackTimer = none

/-- Every target's command state is whole. -/
def TargetsWhole (s : State) : Prop := ∀ t : Fin 7, targetWhole s.disp.targets[t]

/-- The record queue holds at most 32 records (R154). -/
def RecordsBounded (s : State) : Prop := s.map.queue.length ≤ Config.recordPlaces

/-- The suspend count of an erase. -/
def suspendsOf : EraseAhead → Nat
  | .idle => 0
  | .erasing _ n => n
  | .suspended _ n => n

/-- The page buffer fits the current page (11.3). -/
def bufferFits (a : Archive) : Prop :=
  match a.write with
  | .at _ w => w % 4 + a.buffer.length ≤ 4
  | .waiting _ => a.buffer.length ≤ 4
  | .unplaced => a.buffer = []

/-- The page buffer fits the current page, an erase has at most four suspends, and three failures in a
row leave the archive FAILED (11.3, 11.4, R163).  The last two clauses say where a scan and a format
that waits stand, which keeps the others. -/
structure ArchiveBounded (s : State) : Prop where
  buffer : bufferFits s.archive
  suspends : suspendsOf s.archive.erase ≤ Config.maxSuspends
  failures : s.archive.failures < Config.maxFailures ∨ s.archive.state = .failed
  scanning : s.archive.state = .scanning → s.archive.write = .unplaced
  format : s.archive.format = .waiting →
    s.archive.state = .formatting ∧ s.archive.program = none ∧ s.archive.failures = 0

/-- Keys rise strictly. -/
def rising {α : Type} : List (Nat × α) → Bool
  | x :: y :: rest => decide (x.1 < y.1) && rising (y :: rest)
  | _ => true

/-- The canonical form of the flash: bytes by rising address, none equal to what an unlisted address
reads as, and open places by rising number. -/
def Memory.wf (f : Flash) : Bool :=
  rising f.cells && f.cells.all (fun c => c.2 != 255) && rising f.unsettled

/-- A levelling parameter entry keeps its ordering (R101). -/
def levelOrdered (e : LevelEntry) : Prop :=
  e.engage ≤ e.limit ∧ e.release < e.engage ∧ e.minimum ≤ e.maximum

/-- A feed curve's levels are strictly ascending (8.1). -/
def curveOrdered (e : FeedEntry) : Prop := ascending (e.points.toList.map (·.1)) = true

/-- A sensor entry's limits are in order (R42). -/
def sensorOrdered (e : SensorEntry) : Prop := e.short < e.opened

/-- A zone entry keeps the ceiling margin (R65). -/
def zoneMargins (s : State) : Prop := ∀ z : Fin 16, marginHeld s.heat.zones[z].entry = true

/-- The stations of the valid profile entries. -/
def profileStations (p : Vector ProfileEntry 64) : List Int := (validEntries p).map (·.station)

/-- The orderings and margins that every table write keeps (R42, R65, R86, R93, R101, R102, R116, R123,
R176, R178). -/
structure TablesOrdered (s : State) : Prop where
  nodePair : s.bridge.ownNode ≠ s.bridge.consoleNode
  sensors : ∀ i : Fin 19, sensorOrdered s.rmu.lines[i].entry
  reference : s.rmu.ref.refLo ≤ s.rmu.ref.refHi
  sweep : s.rmu.sweepList.Nodup
  margins : zoneMargins s
  budget : 0 < s.power.entry.nominal
  votes : ascending s.voter.heating.toList = true ∧ ascending s.voter.feed.toList = true ∧
    ascending s.voter.travel.toList = true
  levelling : levelOrdered s.level.left.entry ∧ levelOrdered s.level.right.entry
  profile : (profileStations s.level.profile).Pairwise (· < ·)
  curves : curveOrdered s.feed.left.entry ∧ curveOrdered s.feed.right.entry
  pitch : 0 < s.map.entry.pitch

/-- At most one levelling side is in SLOPE mode (R102). -/
def OneSlope (s : State) : Prop :=
  ¬(s.level.left.vars.mode = .slope ∧ s.level.right.vars.mode = .slope)

/-- No occurrence of a condition can ask for FAULTSTOP: the hub is not in RUN, or no kind has severity
STOP (R179). -/
def CannotStop (s : State) : Prop := s.mgmt.mode ≠ .run ∨ ∀ k, (condEntry s.log k).severity ≠ .stop

/-- No FAULTSTOP request stands and none can arise: a command then has its own effect alone. -/
def Quiet (s : State) : Prop := s.mgmt.stopAsked = false ∧ CannotStop s

/-- No request is in service and no FAULTSTOP request stands: the state in which a request is served
(R174). -/
def Ready (s : State) : Prop := s.mgmt.request = none ∧ s.mgmt.stopAsked = false

/-! ### What a command answers -/

/-- A bridge reached from another by offers of own frames alone. -/
inductive OwnOffers : Bridge → Bridge → Prop
  | refl (b : Bridge) : OwnOffers b b
  | offer {b c : Bridge} (f : Frame) : OwnOffers b c → OwnOffers b (offerOwn c f).1

/-- From `s` to `t` the hub has not entered FAULTSTOP: none had been asked for, and no occurrence can ask
for it, or the hub mode is the one it was (R179). -/
def NotStopped (s t : State) : Prop := StopSettled s ∧ (CannotStop s ∨ t.mgmt.mode = s.mgmt.mode)

/-- A command of which a first part has left the state `u` completes from there, as `Completes` says. -/
def CompletesFrom (c : Instr) (l : List Part) (s u : State) (kept post : State → Prop) : Prop :=
  ∃ t, exec c s = .next t ∧ kept t ∧ Only (l ++ modeParts) u t ∧
    (t.mgmt.mode = u.mgmt.mode ∨ (u.mgmt.mode = .run ∧ t.mgmt.mode = .faultstop)) ∧
    (NotStopped u t → Only l u t ∧ post t)

/-- A command completes.  In its next state `kept` holds, nothing has changed but the parts `l` and what an
entry into FAULTSTOP changes, and the hub mode is the one it was unless the hub has gone from RUN into
FAULTSTOP.  Where it has not, nothing but `l` has changed and `post` holds as well. -/
def Completes (c : Instr) (l : List Part) (s : State) (kept post : State → Prop) : Prop :=
  CompletesFrom c l s s kept post

/-- The reply to a request is offered to the bridge `b`: admitted or dropped, the request in service
ends; refused, it waits and the request stays in service (R16, R174).  The request code last refused BUSY is the
request's where the reply is BUSY, and else as it was (R174). -/
def RepliedFrom (b : Bridge) (code : Nat) (seq : Seq) (c : ReplyCode) (x : ReplyFields) (s t : State) :
    Prop :=
  let f := replyFrame b.ownNode code seq.val s.bridge.consoleNode c x
  let o := offerOwn b f
  t.bridge = o.1 ∧
    t.mgmt.request = (if o.2 = .refused then some ⟨code, seq.val, s.bridge.consoleNode, .plain⟩
      else none) ∧
    t.mgmt.waitingReply = (if o.2 = .refused then some (portFor b f.dst, f) else s.mgmt.waitingReply) ∧
    t.mgmt.lastBusy = (if c = .busy then code else s.mgmt.lastBusy)

/-- The reply to a request is offered, after the own frames that its effect sends; that order is R177's for a
change of hub mode and the model's choice for every other request (log entry 90). -/
def Replied (code : Nat) (seq : Seq) (c : ReplyCode) (x : ReplyFields) (s t : State) : Prop :=
  ∃ b, OwnOffers s.bridge b ∧ RepliedFrom b code seq c x s t

/-- A frame has joined a port's queue: the last of its part, or, on an idle port with nothing before it,
the frame now being sent (R14). -/
def Joined (x q : PortRec) (g : OutFrame) : Prop :=
  (x.sending.isSome = true → q =
    if g.frame.urgent then { x with urgentQ := x.urgentQ ++ [g] }
    else { x with normalQ := x.normalQ ++ [g] }) ∧
  (x.sending = none → x.syncs = [] → depth x = 0 → carries x = true → q = { x with sending := some g })

/-- Whether a STALE slot is in use: some valid intake entry names it (R27). -/
def staleNamed (x : Intake) : Bool :=
  (List.finRange 9).any fun j => decide (x.slots[j].quality = .stale) &&
    (List.finRange 24).any fun k => x.entries[k].entry.valid && decide (x.entries[k].entry.slot = j.val)

/-- A filter entry matches a frame: it is valid, its class is the frame's, its source and destination are
"any" or the frame's, and the frame's channel lies in its range (R11). -/
abbrev Fits (f : Frame) (e : FilterEntry) : Prop :=
  e.valid = true ∧ e.cls = f.cls ∧ (e.src = none ∨ e.src = some f.src) ∧
    (e.dst = none ∨ e.dst = some f.dst) ∧ e.chanLow ≤ f.chan ∧ f.chan ≤ e.chanHigh

/-- A filter entry decides a frame: it is the first that matches (R11). -/
abbrev Decides (b : Bridge) (f : Frame) (i : Fin 24) : Prop :=
  Fits f b.filters[i] ∧ ∀ j : Fin 24, j < i → ¬Fits f b.filters[j]

/-- A try of a command for target `i` with a value and sequence is built and offered to the bridge `b`: its
frame carries the value in two bytes to the row's node and channel, urgent for a valve and in FAULTSTOP; it
waits where it is refused, and else the ACK timer starts (R136). -/
def CommandOffered (b : Bridge) (i : Fin 7) (value : Int) (seq : Nat) (s t : State) : Prop :=
  let row := s.disp.targets[i].row
  let n := (value % 65536).toNat
  let f : Frame := ⟨.command, decide (i.val < 2 ∨ s.disp.hubMode = .faultstop), seq, 0, row.node,
    b.ownNode, row.chan, .bytes [BitVec.ofNat 8 (n / 256), BitVec.ofNat 8 n]⟩
  let o := offerOwn b f
  t.bridge = o.1 ∧
    (o.2 = .refused → t.disp.targets[i].waiting = some (portFor b row.node, f) ∧
      t.disp.targets[i].vars.ackTimer = none) ∧
    (o.2 ≠ .refused → t.disp.targets[i].waiting = none ∧
      t.disp.targets[i].vars.ackTimer = some row.timeout)

/-- `x` is the whole number nearest to `p / d`, and, of two that are equally near, the one away from zero (5.2,
R23, R52). -/
def NearestAway (p d x : Int) : Prop :=
  2 * ((x * d - p).natAbs : Int) ≤ d ∧ (2 * ((x * d - p).natAbs : Int) = d → p.natAbs ≤ (x * d).natAbs)

/-- A port in RETRAIN with its first attempt begun and nothing queued, waiting or being sent (R3).  That no sync
waits is the model's choice (log entry 86). -/
def Retraining (q : PortRec) : Prop :=
  q.state = .retrain ∧ q.window = 0 ∧ q.windowTimer = none ∧ q.attempt = some 20 ∧ q.sync = some 2 ∧
    q.sending = none ∧ q.syncs = [] ∧ q.urgentQ = [] ∧ q.normalQ = []

/-- What stays in service of a request whose latest REPLY frame was admitted, dropped or discarded: a fetch whose
final reply is still to come, and a control reset that is to follow (R169, R174, R175). -/
def afterReply (r : Request) : Option Request :=
  match r.kind with
  | .plain => none
  | .fetch f => if f.final = true then none else some r
  | .reset _ => some { r with kind := .reset true }

/-- The port `p` has entered RETRAIN from the state `s`, `r` being its record with the command's own counts: its
queued frames and its waiting own frames are discarded and counted, and the other two counts are `r`'s.  No reply and
no command waits for it, and no notice but the entry's own, which may replace one that waited; a reply that waited for
it counts as sent (R3, R17, R174, R181). -/
def RetrainEntered (p : Port) (r : PortRec) (s t : State) : Prop :=
  let q := getPort t.bridge p
  Retraining q ∧ q.received = r.received ∧ q.errors = r.errors ∧
    min (r.discards + (depth r + waitingCount s p)) 65535 ≤ q.discards ∧
    replyWaits t p = false ∧ (∀ i : Fin 7, commandWaits p t.disp.targets[i] = false) ∧
    (∀ x ∈ t.log.waiting, x.2.1 = p → x.1 = retrainKind p) ∧
    t.mgmt.request = (if replyWaits s p = true then s.mgmt.request.bind afterReply else s.mgmt.request) ∧
    t.mgmt.waitingReply = (if replyWaits s p = true then none else s.mgmt.waitingReply) ∧
    t.mgmt.lastBusy = s.mgmt.lastBusy

/-- Every target whose command waited for the port `p` counts it as sent: nothing waits and its ACK timer starts;
the other targets stand (R3, R136). -/
def WaitingCommandsSent (p : Port) (s t : State) : Prop :=
  ∀ i : Fin 7,
    let x := s.disp.targets[i]
    t.disp.targets[i] = if commandWaits p x = true
      then { x with waiting := none, vars := { x.vars with ackTimer := some x.row.timeout } } else x

/-- The open row `q` is `r` after a scan of the segments `segs` was taken into it: it is scanned, its range union
covers the active range, and a byte of 0 to 250 in that range is a reading of its cell (R147). -/
def ScanTaken (m : MatMap) (segs : Vector (Option (List Byte)) 4) (r q : OpenRow) : Prop :=
  q.scanned = true ∧
  q.span = (match r.span with
    | none => some (m.cLo, m.cHi)
    | some x => some (min x.1 m.cLo, max x.2 m.cHi)) ∧
  q.start = r.start ∧ q.pitch = r.pitch ∧ q.flags = r.flags ∧
  ∀ i : Fin 64,
    (∀ l b, m.cLo ≤ i.val → i.val ≤ m.cHi → segs[ix 3 (i.val / 16)] = some l →
      l[i.val % 16]? = some b → b.toNat ≤ 250 → r.cells[i].count < 65535 →
      q.cells[i] = ⟨r.cells[i].count + 1, r.cells[i].sum + b.toNat⟩) ∧
    ((i.val < m.cLo ∨ m.cHi < i.val ∨ segs[ix 3 (i.val / 16)] = none ∨
      (∃ l b, segs[ix 3 (i.val / 16)] = some l ∧ l[i.val % 16]? = some b ∧ 250 < b.toNat) ∨
      65535 ≤ r.cells[i].count) → q.cells[i] = r.cells[i])

/-- A request whose fields a payload spells as `x` acts as the command that carries them, and, where the payload is
too short to hold them, as `short` (R174). -/
def ActsAs {α : Type} (acts : Instr → Prop) (short : Instr) (x : Option α) (command : α → Instr) : Prop :=
  match x with
  | some w => acts (command w)
  | none => acts short

/-- The request code and sequence of a command that is a request (12.1). -/
def requestOf : Instr → Option (Nat × Seq)
  | .unknownRequest seq code => some (code.toNat, seq)
  | .status seq _ => some (1, seq)
  | .readEntry seq _ _ => some (2, seq)
  | .readSlot seq _ => some (4, seq)
  | .readZone seq _ => some (5, seq)
  | .readSide seq _ => some (6, seq)
  | .readFeed seq _ => some (7, seq)
  | .readLine seq _ => some (8, seq)
  | .readTarget seq _ => some (9, seq)
  | .writeNodeEntry seq _ _ | .writeOwnConsoleNode seq _ _ | .writeFilterEntry seq _ _
  | .writeIntakeEntry seq _ _ | .writeSensorEntry seq _ _ | .writeReferenceEntry seq _
  | .writeSweepList seq _ _ | .writeTravelParameters seq _ _ | .writeZoneEntry seq _ _
  | .writeBudget seq _ _ | .writeVoteTable seq _ _ | .writeLevellingEntry seq _ _
  | .writeProfileEntry seq _ _ | .writeProtectionEntry seq _ _ | .writeFeedEntry seq _ _
  | .writeTargetRow seq _ _ | .writeMapEntry seq _ _ | .writeArchiveEntry seq _ _
  | .writeConditionSeverity seq _ _ => some (3, seq)
  | .setModeHeat seq _ | .setModeLevel seq _ _ | .setModeFeed seq _ _ => some (10, seq)
  | .run seq => some (11, seq)
  | .stop seq => some (12, seq)
  | .resume seq => some (13, seq)
  | .setStation seq _ => some (14, seq)
  | .setClock seq _ => some (15, seq)
  | .mark seq _ => some (16, seq)
  | .fetch seq _ _ => some (17, seq)
  | .format seq => some (18, seq)
  | .clearCondition seq _ => some (19, seq)
  | .clearLine seq _ => some (20, seq)
  | .resetControl seq => some (21, seq)
  | .powerOnReset | .frameReceived _ _ _ | .windowTimerExpires _ | .syncTimerExpires _
  | .retrainAttemptEnds _ | .downRetryTimerExpires _ | .settleTimerExpires _ | .frameSendEnds _
  | .waitingFrameAdmitted _ | .slotStalenessExpires _ | .parkTimerExpires | .referenceCountEnds _
  | .firstCountEnds _ | .retryCountEnds _ | .periodLimitExpires | .zoneStaleExpires _
  | .heaterPeriodStart | .heaterOnTimeEnds _ | .supplyFalls | .supplyRises | .debounceTimerExpires
  | .recoverTimerExpires | .downDelayExpires | .jobKeyChange _ | .starveTimerExpires _
  | .ackTimerExpires _ | .assemblyWindowExpires | .recordTaken | .flushTimerExpires | .programIssued
  | .programComplete | .programTimerExpires | .eraseIssued | .eraseComplete | .eraseTimerExpires
  | .archiveScanEnds | .fetchRecordRead | .jobClockAdvance | .controlReset => none

/-- The bridge `b` with the tables of `c`. -/
def withTables (b c : Bridge) : Bridge :=
  { c with portA := b.portA, portB := b.portB }

/-- A request is served with no effect but on the parts `l`, where `post` holds, and its reply, by the
tables as they stand after it, is the one own frame that it sends. -/
def AnswersWith (c : Instr) (l : List Part) (rc : ReplyCode) (x : ReplyFields) (s : State)
    (post : State → Prop) : Prop :=
  ∃ code seq t, requestOf c = some (code, seq) ∧ exec c s = .next t ∧ Only (answerParts ++ l) s t ∧
    RepliedFrom (withTables s.bridge t.bridge) code seq rc x s t ∧ post t

/-- A request is answered and does nothing else. -/
def Answers (c : Instr) (rc : ReplyCode) (x : ReplyFields) (s : State) : Prop :=
  AnswersWith c [] rc x s fun _ => True

/-- A request is served: it completes within the parts `l` and its answer's, and its reply follows its
effect, as `Replied` says (log entry 90). -/
def Serves (c : Instr) (l : List Part) (rc : ReplyCode) (x : ReplyFields) (s : State)
    (kept post : State → Prop) : Prop :=
  ∃ code seq, requestOf c = some (code, seq) ∧
    Completes c (answerParts ++ l) s (fun t => Replied code seq rc x s t ∧ kept t) post

/-- A command that tests make in their order: the first that fails refuses it with its code, and where none
fails `done` holds. -/
def Tested (c : Instr) (s : State) : List (Prop × ReplyCode) → Prop → Prop
  | [], done => done
  | (fails, rc) :: rest, done => (fails → Answers c rc .none s) ∧ (¬fails → Tested c s rest done)

/-! ### What the reports do -/

/-- A zone's state has been evaluated in the hub mode `m`, with the heating master `master` and the travel state
`v`, `x` being the zone before and `y` after: its state and demand duty follow its source, temperature, flags and
entry, its boost and heater line an off state, and the rest stands (R71 to R74, R81). -/
def ZoneEvaluated (m : HubMode) (master : Bool) (v : Travel) (x y : Zone) : Prop :=
  let e := x.entry
  let old := x.vars
  let new := y.vars
  let off := e.enable = false ∨ master = false
  let away := m ≠ .run ∨ v.cHi < e.first ∨ e.last < v.cLo
  let blind := old.source = .none ∨ old.temp = none ∨ old.stale = true
  let rests := off ∨ away ∨ blind
  let law := fun err : Int => (max 0 (min 255 (e.hold + Int.tdiv (err * e.gain) 10))).toNat
  y.entry = e ∧ new.source = old.source ∧ new.temp = old.temp ∧ new.age = old.age ∧ new.stale = old.stale ∧
    new.overtemp = old.overtemp ∧
    (off → new.state = .disabled) ∧ (¬off → away → new.state = .idle) ∧
    (¬off → ¬away → blind → new.state = .fault) ∧
    (∀ t k, ¬rests → old.temp = some (t, k) →
      (v.motion = .parked → new.state = .standby) ∧
      (v.motion ≠ .parked →
        (old.state = .regulate → new.state = if t < e.setpoint - 2 * e.warmBand then .warmup else .regulate) ∧
        (old.state ≠ .regulate → new.state = if t < e.setpoint - e.warmBand then .warmup else .regulate))) ∧
    (rests → new.boost = 0 ∧ new.demand = 0) ∧ (¬rests → new.boost = old.boost) ∧
    (rests ∨ new.overtemp = true → new.lineOn = false ∧ new.periodDuty = 0) ∧
    (new.overtemp = true → new.demand = 0) ∧
    (new.overtemp = false → (new.state = .warmup → new.demand = 255) ∧
      (∀ t k, new.temp = some (t, k) →
        (new.state = .regulate → new.demand = law (e.setpoint + new.boost - t)) ∧
        (new.state = .standby → new.demand = law (e.standby - t))))

/-- Every zone's state has been evaluated in the hub mode `m` with the heating master `master` (R66, R71, R177),
and what follows has been done: a zone whose demand duty or state changed has been reported and the power allocated
again, and ZONE_FAULT, ZONE_OVERTEMP, HEAT_SHED and the heating right stand as the zones do (R73, R75, R78, R90 to
R92).  The order of the zones is the model's choice (log entry 71), and nothing here depends on it. -/
def ZonesEvaluated (m : HubMode) (master : Bool) (s t : State) : Prop :=
  let old := fun z : Fin 16 => s.heat.zones[z].vars
  let new := fun z : Fin 16 => t.heat.zones[z].vars
  let told := fun z : Fin 16 => (new z).demand ≠ (old z).demand ∨ (new z).state ≠ (old z).state
  let entry := fun z : Fin 16 => s.heat.zones[z].entry
  let fed : Vector AllocRec 16 := Vector.ofFn fun z : Fin 16 => if told z then
    { s.power.records[z] with
      demand := (new z).demand
      state := (new z).state
      rating := (entry z).rating
      cls := (entry z).cls } else s.power.records[z]
  let right := master && (List.finRange 16).any fun z =>
    (new z).state == .standby || (new z).state == .warmup || (new z).state == .regulate
  (∀ z : Fin 16, ZoneEvaluated m master s.travel s.heat.zones[z] t.heat.zones[z]) ∧
    ((∀ z, ¬told z) → t.power = s.power ∧ t.heat.zones.map (·.vars.alloc) = s.heat.zones.map (·.vars.alloc)) ∧
    ((∃ z, told z) → t.power = { s.power with records := allocateAll (budgetNow s.power) fed } ∧
      t.voter.heatInput = ((List.finRange 16).map fun z : Fin 16 => fed[z].rating * fed[z].demand / 255).sum ∧
      isActive t .heatShed = (List.finRange 16).any fun z => t.power.records[z].shed) ∧
    (∀ z : Fin 16, t.power.records[z].alloc ≠ s.power.records[z].alloc ∨
        t.power.records[z].shed ≠ s.power.records[z].shed →
      (new z).alloc = t.power.records[z].alloc ∧ (new z).shed = t.power.records[z].shed) ∧
    isActive t .zoneFault = ((List.finRange 16).any fun z => (new z).state == .fault) ∧
    isActive t .zoneOvertemp = ((List.finRange 16).any fun z => (new z).overtemp) ∧
    t.heat.rights = right ∧ (right ≠ s.heat.rights → t.voter.heatRight = right)

/-- A measurement of the line `line` has ended with the line's record `v` and a report to the zones, `temp` being
the temperature of an ACCEPTED result: LINE_FAILED follows the lines that are FAILED, the report goes to the zones
by rising index (log entry 59), and the sweep goes on to the next place (R45, R58, R60). -/
def lineEnded (line place : Nat) (v : LineVars) (temp : Option (Int × Bool)) (s : State) : State :=
  let lines := s.rmu.lines.set (lineIx line) { s.rmu.lines[lineIx line] with vars := v }
  let u := setLevelKind .lineFailed ((List.finRange 19).any fun i : Fin 19 => lines[i].vars.state == .failed)
    { s with rmu := { s.rmu with lines := lines } }
  countPlace (place + 1) ((List.finRange 16).foldl (fun s z => zoneReport line temp s z) u)

/-- A side's record `w`, `v` before, after the side has evaluated its target and beyond-end flag at the
station `x`; in STANDBY it does not (R113, R114, R117, R118). -/
def Evaluated (p : Vector ProfileEntry 64) (d : Side) (x : Int) (v w : SideVars) : Prop :=
  (v.state = .standby → w = v) ∧
  (v.state ≠ .standby → w = { v with
      target := match v.mode, d with
        | .manual, _ => v.target
        | .slope, _ => some (profileAt p .slope x)
        | .grade, .left => v.base.map fun b => max (-5000) (min 5000 (b + profileAt p .left x))
        | .grade, .right => v.base.map fun b => max (-5000) (min 5000 (b + profileAt p .right x))
      beyond := w.beyond } ∧
    (w.beyond = true ↔ ∃ e, (validEntries p).getLast? = some e ∧ e.station < x))

/-- Both levelling sides evaluate their targets at the station `x` by the profile `p`, and PROFILE_END follows
(R118). -/
def TargetsEvaluated (p : Vector ProfileEntry 64) (x : Int) (s t : State) : Prop :=
  (∀ d, Evaluated p d x (sideVars s d) (sideVars t d)) ∧
    ((∃ d, (sideVars s d).state ≠ .standby) → isActive t .profileEnd =
      ((sideVars t .left).beyond || (sideVars t .right).beyond))

/-- A feed side's commands follow its curve at the level `l`: the conveyor's, and the auger's by the half
width, each submitted (R124, R127). -/
def FeedFollows (x : Feed) (d : Side) (e : FeedEntry) (l : Nat) (w : FeedVars) : Prop :=
  let c := curveAt e l
  let a := min (c * (match d with
    | .left => x.leftHalf
    | .right => x.rightHalf) / x.baseHalf) 1000
  w.conveyor = c ∧ w.auger = a ∧ w.lastConveyor = some (c : Int) ∧ w.lastAuger = some (a : Int)

/-- A feed side has stopped: its commands are 0, and the neutral values are its last submissions (R127). -/
def FeedStops (s : State) (d : Side) (w : FeedVars) : Prop :=
  w.conveyor = 0 ∧ w.auger = 0 ∧ w.lastConveyor = some (neutralOf s (conveyorOf d)) ∧
    w.lastAuger = some (neutralOf s (augerOf d))

/-- A feed side has gone to STANDBY (R126). -/
def FeedRests (d : Side) (s t : State) : Prop :=
  let v := feedVars s d
  let w := feedVars t d
  w.state = .standby ∧ w.mode = v.mode ∧ w.held = v.held ∧ w.fresh = v.fresh ∧ (v.state = .standby → w = v) ∧
    (v.state ≠ .standby → w.starve = none ∧ FeedStops s d w)

/-- The ENGINE target, where its row is enabled and the dispatcher takes the value, has it outstanding with
nothing pending, or pending (R97, R135). -/
def EngineAsked (n : Nat) (s t : State) : Prop :=
  s.disp.targets[6].row.enabled = true → s.disp.hubMode ≠ .faultstop ∨ n = t.voter.floor →
    let y := t.disp.targets[6].vars
    (∃ o, y.outstanding = some o ∧ o.value = n ∧ (TargetsWhole s → y.pending = none)) ∨
      y.pending = some (n : Int)

/-- A report written into the Voter has been applied (R94 to R97), `v` being the Voter with the report.  In RUN
the requested level rises at once with the resolved level, which is submitted to ENGINE, and the timer stops; at an
equal level the timer stops; below, it runs on or starts.  Outside RUN the report alone is kept. -/
def VotesApplied (v : Voter) (s t : State) : Prop :=
  let r := resolvedLevel v
  (s.mgmt.mode ≠ .run → t = { s with voter := v }) ∧
  (s.mgmt.mode = .run →
    (v.requested < r → t = submit 6 r { s with voter := { v with requested := r, timer := none } }) ∧
    (v.requested = r → t = { s with voter := { v with timer := none } }) ∧
    (r < v.requested → t = { s with voter := { v with timer := match v.timer with
      | some n => some n
      | none => some (v.downDelay * 1000) } }))

/-- A levelling side has gone to STANDBY (R104). -/
def SideRests (d : Side) (s t : State) : Prop :=
  let v := sideVars s d
  let w := sideVars t d
  w.state = .standby ∧ w.mode = v.mode ∧ (v.state = .standby → w = v) ∧
    (v.state ≠ .standby → w.counter = 0 ∧ w.lastValid = none ∧ w.base = none ∧ w.target = none ∧
      w.beyond = false ∧ w.lastSubmitted = some (neutralOf s (valveOf d)))

/-- Entry into RUN sets a levelling side in an automatic mode going and leaves one in MANUAL as it is: with its
counter, last valid reading and base cleared it enters ACQUIRE in forward travel, and else FROZEN, to return to
ACQUIRE (R104). -/
def SideStarts (d : Side) (s t : State) : Prop :=
  let v := sideVars s d
  let w := sideVars t d
  (v.mode = .manual → w = v) ∧
  (v.mode ≠ .manual → w.mode = v.mode ∧ w.counter = 0 ∧ w.lastValid = none ∧ w.base = none ∧
    (s.level.motion = .forward → w.state = .acquire) ∧
    (s.level.motion ≠ .forward → w.state = .frozen ∧ w.remembered = some .acquire) ∧
    (v.state = .standby → w.lastSubmitted = some (neutralOf s (valveOf d)) ∧
      Evaluated s.level.profile d s.travel.station
        { w with target := v.target, beyond := v.beyond } w))

/-- Entry into FAULTSTOP takes a levelling side in an automatic mode to HOLD with its counter and base, and
leaves one in MANUAL as it is (R104); its last valid reading is kept too (log entry 61). -/
def SideHolds (d : Side) (s t : State) : Prop :=
  let v := sideVars s d
  let w := sideVars t d
  (v.mode = .manual ∨ v.state = .hold → w = v) ∧
  (v.mode ≠ .manual → w.state = .hold ∧ w.mode = v.mode ∧ w.counter = v.counter ∧ w.base = v.base ∧
    w.lastValid = v.lastValid ∧ (v.state ≠ .hold → w.lastSubmitted = some (neutralOf s (valveOf d))))

/-- Entry into RUN makes the AUTO entry test for a feed side in AUTO, its starve timer stopped, and leaves one in
MANUAL as it is (R125 to R127). -/
def FeedStarts (d : Side) (s t : State) : Prop :=
  let v := feedVars s d
  let w := feedVars t d
  (v.mode = .manual → w = v) ∧
  (v.mode = .auto → w.mode = v.mode ∧ w.held = v.held ∧ w.fresh = v.fresh ∧ w.starve = none ∧
    (s.feed.motion = .parked → w.state = .paused) ∧
    (s.feed.motion ≠ .parked → v.fresh = true → w.state = .running) ∧
    (s.feed.motion ≠ .parked → v.fresh = false → w.state = .sensorless) ∧
    (v.state = .standby → (w.state = .paused ∨ w.state = .sensorless → FeedStops s d w) ∧
      (w.state = .running → ∀ l, v.held = some l → FeedFollows s.feed d (getFeed s.feed d).entry l w)))

/-- The report of the motion state `c` to its receivers: from `s`, whose motion state is already the new one,
every zone is evaluated, both levelling sides take the report in RUN and both feed sides in RUN, the Voter its
travel right, and the open row its flag (R37, R71, R94, R111, R112, R130, R148). -/
def MotionTold (c : Motion) (s t : State) : Prop :=
  let zones := (List.finRange 16).foldl (fun u z => reviewZone z u) s
  let level : State := { zones with level := { zones.level with motion := c } }
  let sides := if s.mgmt.mode = .run then sideMotion c (sideMotion c level .left) .right else level
  let feed : State := { sides with feed := { sides.feed with motion := c } }
  let feeds := if s.feed.hubMode = .run then sideFeedMotion c (sideFeedMotion c feed .left) .right else feed
  ∃ u, VotesApplied { feeds.voter with travelRight := decide (c = .forward ∨ c = .reverse) } feeds u ∧
    t = { u with map := { u.map with
      motion := c
      row := u.map.row.map fun r => { r with flags := match c with
        | .forward => r.flags
        | .stopped => r.flags ||| 1
        | .parked => r.flags ||| 2
        | .reverse => r.flags ||| 4 } } }

/-- The report of the station to its receivers: from `s`, whose station is already the new one, both levelling
sides evaluate their targets, and then the Mat Map Unit takes the station, closing the rows that it crosses (R33,
R118, R150). -/
def StationTold (s t : State) : Prop :=
  ∃ u, TargetsEvaluated s.level.profile s.travel.station s u ∧ Only (.levelSides :: logParts) s u ∧
    t = mapStation s.travel.station s.travel.highWater u

/-! ### The hub's own time -/

/-- The internal event that a command names is due: the timer has run out, the age has reached its limit, or the
work that waits can go on.  No frame, edge, key, flash report or request of the outside is ever due.  The events as
commands are the model's form of time (log entries 2, 13, 21, 57 and 85). -/
def EventDue (s : State) : Instr → Prop
  | .controlReset => ∃ r, s.mgmt.request = some r ∧ r.kind = .reset true
  | .waitingFrameAdmitted p => carries (getPort s.bridge p) = true ∧ depth (getPort s.bridge p) < 16 ∧
      ((∃ f, s.mgmt.waitingReply = some (p, f)) ∨ (∃ x ∈ s.log.waiting, x.2.1 = p) ∨
        ∃ (i : Fin 7) (f : Frame), s.disp.targets[i].waiting = some (p, f))
  | .frameSendEnds p => (getPort s.bridge p).sending.isSome = true
  | .windowTimerExpires p => (getPort s.bridge p).windowTimer = some 0
  | .settleTimerExpires p => (getPort s.bridge p).settle = some 0
  | .syncTimerExpires p => (getPort s.bridge p).sync = some 0
  | .retrainAttemptEnds p => (getPort s.bridge p).attempt = some 0
  | .downRetryTimerExpires p => (getPort s.bridge p).retry = some 0
  | .slotStalenessExpires i =>
    let x := s.intake.slots[i]
    (x.quality = .good ∨ x.quality = .clamped) ∧ x.limit ≤ x.age
  | .parkTimerExpires => s.travel.park = some 0
  | .periodLimitExpires => ∃ c, s.rmu.counting = some c ∧ c.limit = some 0
  | .referenceCountEnds n => s.rmu.gate = some 0 ∧ ∃ c, s.rmu.counting = some c ∧ c.line = 0 ∧
      n = Config.edgesCounted s.marks s.rmu.counts c.line
  | .firstCountEnds n => s.rmu.gate = some 0 ∧ ∃ c, s.rmu.counting = some c ∧ c.line ≠ 0 ∧
      c.phase = .first ∧ n = Config.edgesCounted s.marks s.rmu.counts c.line
  | .retryCountEnds n => s.rmu.gate = some 0 ∧ ∃ c, s.rmu.counting = some c ∧ c.line ≠ 0 ∧
      c.phase = .retry ∧ n = Config.edgesCounted s.marks s.rmu.counts c.line
  | .zoneStaleExpires z =>
    let x := s.heat.zones[z]
    x.vars.temp.isSome = true ∧ x.vars.stale = false ∧ x.entry.staleTime ≤ x.vars.age
  | .heaterPeriodStart => s.power.entry.period * 1000 ≤ s.heat.elapsed
  | .heaterOnTimeEnds z =>
    let period := s.power.entry.period * 1000
    let on := period * s.heat.zones[z].vars.periodDuty / 255
    s.heat.zones[z].vars.lineOn = true ∧ on ≤ s.heat.elapsed ∧ on < period
  | .debounceTimerExpires => s.power.debounce = some 0
  | .recoverTimerExpires => s.power.recover = some 0
  | .downDelayExpires => s.voter.timer = some 0
  | .starveTimerExpires d => (feedVars s d).starve = some 0
  | .ackTimerExpires i => s.disp.targets[i].vars.ackTimer = some 0
  | .assemblyWindowExpires => s.map.window = some 0
  | .flushTimerExpires => s.archive.flush = some 0
  | .programTimerExpires => s.archive.program = some 0
  | .eraseTimerExpires => s.archive.eraseTimer = some 0 ∧ ∀ k n, s.archive.erase ≠ .suspended k n
  | .recordTaken => s.archive.state = .normal ∧ s.archive.program = none ∧ s.map.queue ≠ [] ∧
      ∃ k w, s.archive.write = .at k w ∧ w % 4 + s.archive.buffer.length < 4
  | .programIssued => s.archive.state = .normal ∧ s.archive.programDue = true ∧ s.archive.program = none ∧
      (∀ k n, s.archive.erase = .erasing k n → n < 4) ∧ fetchHolds s.mgmt = false
  | .eraseIssued => s.archive.eraseDue ≠ none ∧ s.archive.program = none ∧ s.archive.programDue = false ∧
      fetchHolds s.mgmt = false
  | .fetchRecordRead => s.mgmt.waitingReply = none ∧ s.archive.program = none ∧
      ∃ r f, s.mgmt.request = some r ∧ r.kind = .fetch f ∧ f.final = false ∧
        (f.last < f.next ∨ s.archive.programDue = true ∨ 24 ≤ s.map.queue.length ∨ s.archive.state = .failed ∨
          f.begun = true ∨ (s.archive.eraseDue = none ∧ ∀ k n, s.archive.erase = .erasing k n → n < 4))
  | .jobClockAdvance => s.mgmt.second = some 0
  | .powerOnReset | .frameReceived _ _ _ | .supplyFalls | .supplyRises | .jobKeyChange _ | .programComplete
  | .eraseComplete | .archiveScanEnds | .unknownRequest _ _ | .status _ _ | .readEntry _ _ _ | .readSlot _ _
  | .readZone _ _ | .readSide _ _ | .readFeed _ _ | .readLine _ _ | .readTarget _ _ | .writeNodeEntry _ _ _
  | .writeOwnConsoleNode _ _ _ | .writeFilterEntry _ _ _ | .writeIntakeEntry _ _ _ | .writeSensorEntry _ _ _
  | .writeReferenceEntry _ _ | .writeSweepList _ _ _ | .writeTravelParameters _ _ _ | .writeZoneEntry _ _ _
  | .writeBudget _ _ _ | .writeVoteTable _ _ _ | .writeLevellingEntry _ _ _ | .writeProfileEntry _ _ _
  | .writeProtectionEntry _ _ _ | .writeFeedEntry _ _ _ | .writeTargetRow _ _ _ | .writeMapEntry _ _ _
  | .writeArchiveEntry _ _ _ | .writeConditionSeverity _ _ _ | .setModeHeat _ _ | .setModeLevel _ _ _
  | .setModeFeed _ _ _ | .run _ | .stop _ | .resume _ | .setStation _ _ | .setClock _ _ | .mark _ _
  | .fetch _ _ _ | .format _ | .clearCondition _ _ | .clearLine _ _ | .resetControl _ => False

/-- One millisecond has passed from `s` to `t`: every running timer has fallen by 1, but for that of a suspended
erase, which stands; the ages of the slots that are not EMPTY, of the zones that have a temperature and of the heater
period have risen by 1, the first two to 65535 at most; and nothing else has changed (5.1, R26, R70, 11.4).  The
millisecond as the model's unit, the period timer as a time elapsed, and the age of a zone without a temperature are
its choice (log entries 2, 21 and 88). -/
def MillisecondPassed (s t : State) : Prop :=
  let down := fun x : Timer => x.map (· - 1)
  let port := fun r : PortRec => { r with
    windowTimer := down r.windowTimer
    attempt := down r.attempt
    sync := down r.sync
    retry := down r.retry
    settle := down r.settle }
  let side := fun x : FeedSide => { x with vars := { x.vars with starve := down x.vars.starve } }
  (∀ i : Fin 9, let x := s.intake.slots[i]
    t.intake.slots[i] = if x.quality = .empty then x else { x with age := min (x.age + 1) 65535 }) ∧
  (∀ z : Fin 16, let x := s.heat.zones[z]
    t.heat.zones[z] = if x.vars.temp = none then x
      else { x with vars := { x.vars with age := min (x.vars.age + 1) 65535 } }) ∧
  (∀ i : Fin 7, let x := s.disp.targets[i]
    t.disp.targets[i] = { x with vars := { x.vars with ackTimer := down x.vars.ackTimer } }) ∧
  t = { s with
    bridge := { s.bridge with portA := port s.bridge.portA, portB := port s.bridge.portB }
    intake := { s.intake with slots := t.intake.slots }
    travel := { s.travel with park := down s.travel.park }
    rmu := { s.rmu with
      counting := s.rmu.counting.map fun c => { c with limit := down c.limit }
      gate := down s.rmu.gate }
    heat := { s.heat with zones := t.heat.zones, elapsed := s.heat.elapsed + 1 }
    power := { s.power with debounce := down s.power.debounce, recover := down s.power.recover }
    voter := { s.voter with timer := down s.voter.timer }
    feed := { s.feed with left := side s.feed.left, right := side s.feed.right }
    disp := { s.disp with targets := t.disp.targets }
    map := { s.map with window := down s.map.window }
    archive := { s.archive with
      flush := down s.archive.flush
      program := down s.archive.program
      eraseTimer := match s.archive.erase with
        | .suspended _ _ => s.archive.eraseTimer
        | .idle | .erasing _ _ => down s.archive.eraseTimer }
    mgmt := { s.mgmt with second := down s.mgmt.second } }

end Sys2Proof.Machine
end

