-- ==== Sys2Proof/Certificates/Slice0/Obligations.lean ====
section
/-! DEFINITION. The statements for the provers.  Each says what a command or the hub does, by the numbered
rules of spec/.  Where a command may bring an entry into FAULTSTOP (R179), `Completes` says what holds in
either case and what holds where the hub has not entered it. -/

open Sys2Proof Sys2Proof.Machine

/-! ### The machine -/

/-- A step takes the command at the front of the queue and runs it with the queue's rest.  On an empty queue an
internal event that is due, if there is one, becomes the one waiting command and nothing else changes; where none is
due, one millisecond passes: every running timer falls by 1, that of a suspended erase stands, the ages of slots and
zones rise by 1, to 65535 at most, and the heater period's time rises by 1 (5.1, R26, R70, R79, 11.4).  The queue,
the events as its commands, and the order of events and time on an empty queue are the model's form of what causes
the hub's actions (log entries 2, 3, 5, 13, 21, 57, 85 and 88), and no order among due events is claimed. -/
def Obligations.StepRunsFrontCommand : Prop :=
  (∀ (c : Instr) (rest : List Instr) (s : State), s.pending = c :: rest →
    step s = exec c { s with pending := rest }) ∧
  (∀ (c : Instr) (s : State), c ∈ dueEvents s ↔ EventDue s c) ∧
  (∀ s : State, s.pending = [] →
    ((∃ c, EventDue s c) → ∃ c, EventDue s c ∧ step s = .next { s with pending := [c] }) ∧
    ((∀ c, ¬EventDue s c) → ∃ t, step s = .next t ∧ MillisecondPassed s t))

/-- The state after reset meets every invariant below and can serve a request; its blank flash and archive
entry are those of log entries 4 and 40. -/
def Obligations.ResetMeetsInvariants : Prop :=
  QueuesBounded State.reset ∧ RecordsBounded State.reset ∧ StopSettled State.reset ∧
    GuardsClear State.reset ∧ HeldLinesOff State.reset ∧ TargetsWhole State.reset ∧
    ArchiveBounded State.reset ∧ Memory.wf State.reset.flash = true ∧ TablesOrdered State.reset ∧
    OneSlope State.reset ∧ Ready State.reset

/-- Every step keeps each output queue at no more than 16 frames with no more than 12 pass-through frames
(R15), and the record queue at no more than 32 records (R154). -/
def Obligations.QueuesBoundedKept : Prop :=
  ∀ s t : State, step s = .next t →
    (QueuesBounded s → QueuesBounded t) ∧ (RecordsBounded s → RecordsBounded t)

/-- Every step keeps the guard law, that behind a closed guard no frame that it had passed is queued or being
sent (R12, R13); and no step leaves a FAULTSTOP request standing.  A request is held in a field of the model's
own and acted on at the command's end (log entries 23 and 47). -/
def Obligations.GuardsClearKept : Prop :=
  ∀ s t : State, step s = .next t →
    (GuardsClear s → GuardsClear t) ∧ (StopSettled s → StopSettled t)

/-- Every step keeps every heater line off whose zone is DISABLED, IDLE or FAULT, or has OVERTEMP set, and
every line while the hub is not in RUN (R81). -/
def Obligations.HeldLinesOffKept : Prop :=
  ∀ s t : State, HeldLinesOff s → step s = .next t → HeldLinesOff t

/-- Every step keeps every target's command state whole: a pending value stands behind an outstanding
command only, and an outstanding command waits for admission or has its ACK timer running (9.2). -/
def Obligations.TargetsWholeKept : Prop :=
  ∀ s t : State, TargetsWhole s → step s = .next t → TargetsWhole t

/-- Every step keeps the archive's bounds: the page buffer fits its page, an erase has at most four
suspends, and three flash failures in a row leave the archive FAILED (11.3, R163, R165). -/
def Obligations.ArchiveBoundedKept : Prop :=
  ∀ s t : State, ArchiveBounded s → step s = .next t → ArchiveBounded t

/-- Every step keeps the flash in its canonical form: addresses rise, no byte of 255 is listed, and the
open places rise.  The form is the model's own (log entries 4 and 9). -/
def Obligations.FlashFormKept : Prop :=
  ∀ s t : State, Memory.wf s.flash = true → step s = .next t → Memory.wf t.flash = true

/-- Every step keeps the orderings and margins of the tables: sensor limits, ceiling margin, vote
thresholds, levelling levels, profile stations and feed curves; and at most one side in SLOPE. -/
def Obligations.TablesOrderedKept : Prop :=
  ∀ s t : State, step s = .next t →
    (TablesOrdered s → TablesOrdered t) ∧ (OneSlope s → OneSlope t)

/-! ### Frames and slots -/

/-- A frame's bytes pass the port's checks and are read as the frame, with every field at every value the
layout admits (1.2, R1). -/
def Obligations.FrameRoundTrip : Prop :=
  ∀ (f : Frame) (l : List Byte), f.body = .bytes l → l.length ≤ 40 → f.seq < 16 → f.spare < 4 →
    f.dst < 64 → f.src < 256 → f.chan < 256 →
    ∃ bytes, frameBytes f = some bytes ∧ bytes.length = 7 + l.length ∧ checkFrame true bytes = some f

/-- The 64 bytes of a record's slot are a valid slot, not an erased one, and hold the record's number and
fields where 11.2 lays them out for its kind, most significant byte first, with zeros up to the CRC (11.2). -/
def Obligations.SlotImageReadsBack : Prop :=
  ∀ (n : Nat) (r : Record), n ≤ 4294967295 →
    let be := fun (k x : Nat) => (List.range k).map fun i => BitVec.ofNat 8 (x / 256 ^ (k - 1 - i))
    let signed := fun x : Int => be 4 (x % 4294967296).toNat
    let holds := fun (kind clock : Nat) (station : Int) (body : List Byte) =>
      (slotImage n r).take 62 = be 1 kind ++ be 4 n ++ be 4 clock ++ signed station ++ body ++
        List.replicate (49 - body.length) 0
    (slotImage n r).length = 64 ∧ slotValid (slotImage n r) = true ∧
      slotErased (slotImage n r) = false ∧ slotNumber (slotImage n r) = n ∧
      (slotImage n r).take 37 = wireForm n r ∧
      (∀ x, r = .row x → x.runs.length = 6 → holds 0 x.clock x.station (be 2 x.pitch ++ be 1 x.colLo ++
        be 1 x.colHi ++ be 1 x.valid ++ be 1 x.cold ++ be 1 x.min ++ be 1 x.max ++ be 1 x.mean ++
        be 2 x.flags.toNat ++ be 1 x.runCount ++ x.runs.flatMap fun y => be 1 y.1 ++ be 1 y.2)) ∧
      (∀ g, r = .gap g → holds 1 g.clock g.first (signed g.last ++ be 4 g.rows ++
        be 1 (match g.reason with
          | .queueFull => 0
          | .skipped => 1) ++ be 1 (if g.restart = true then 1 else 0))) ∧
      (∀ clock station cause, r = .restart clock station cause → holds 2 clock station (be 1 (match cause with
        | .powerOn => 0
        | .controlReset => 1
        | .resumed => 2
        | .restarted => 3))) ∧
      (∀ clock station code, r = .mark clock station code → holds 3 clock station (be 2 code))

/-! ### The link -/

/-- A frame that fails a check counts an error and acts on the port's state (R1, R2, R3): UP goes to SUSPECT,
SUSPECT counts, the fourth error enters RETRAIN, where the port's queued frames and its waiting own frames are
discarded and counted, the entry's own notice at most besides, and their producers take them as sent, a command with
its ACK timer and a reply with its request's end; and RETRAIN and DOWN stay (R17, R136, R174).  An attempt's first sync
2 ms after its start, and a waiting sync that RETRAIN drops uncounted, are the model's reading (log entries 16 and
86). -/
def Obligations.PortErrorsAct : Prop :=
  ∀ (p : Port) (clean : Bool) (bytes : List Byte) (s : State), StopSettled s →
    checkFrame clean bytes = none →
    let c := Instr.frameReceived p clean bytes
    let x := getPort s.bridge p
    let r := { x with errors := min (x.errors + 1) 65535 }
    (x.state = .up → exec c s =
      .next (onPort p (fun _ => { r with state := .suspect, window := 1, windowTimer := some 100 }) s)) ∧
    (x.state = .suspect → x.window < 3 → exec c s =
      .next (onPort p (fun _ => { r with window := x.window + 1 }) s)) ∧
    (x.state = .suspect → 3 ≤ x.window →
      Completes c (.request :: .targetStates :: logParts) s
        (RetrainEntered p r s)
        (fun t => WaitingCommandsSent p s t ∧ (getPort t.bridge p).discards ≤
            min (r.discards + (depth r + waitingCount s p) + 1) 65535 ∧ (condEntry t.log (retrainKind p)).count =
          min ((condEntry s.log (retrainKind p)).count + 1) 255)) ∧
    (x.state = .retrain ∨ x.state = .down → exec c s = .next (onPort p (fun _ => r) s))

/-- A good LINKCTL frame acts by the port's state (R4, R5, R6): no effect in UP while the settle timer runs, a port
error in UP after it, RETRAIN from SUSPECT, with its error counted and the port's queued frames and waiting own
frames discarded and counted, their producers taking them as sent (R3, R17, R136, R174), and UP, with a sync sent as
the answer, from RETRAIN and DOWN. An answer that waits for the line, a frame of source 63, left out here, an
attempt's first sync 2 ms after its start, and a waiting sync that RETRAIN drops uncounted are the model's reading
(log entries 12, 14, 16 and 86). -/
def Obligations.SyncFramesAct : Prop :=
  ∀ (p : Port) (clean : Bool) (bytes : List Byte) (f : Frame) (s : State), StopSettled s →
    checkFrame clean bytes = some f → f.cls = .linkctl → f.src ≠ 63 →
    let c := Instr.frameReceived p clean bytes
    let x := getPort s.bridge p
    let r := { x with received := min (x.received + 1) 65535 }
    let e := { r with errors := min (x.errors + 1) 65535 }
    let up := fun q : PortRec => q.state = .up ∧ q.retrains = 0 ∧ q.settle = some 5 ∧ q.attempt = none ∧
      q.sync = none ∧ q.retry = none ∧ q.received = r.received ∧ q.errors = x.errors ∧
      syncFrame s.bridge.ownNode ∈ q.sending.toList ++ q.syncs
    (x.state = .up → x.settle.isSome = true → exec c s = .next (onPort p (fun _ => r) s)) ∧
    (x.state = .up → x.settle = none → exec c s =
      .next (onPort p (fun _ => { e with state := .suspect, window := 1, windowTimer := some 100 }) s)) ∧
    (x.state = .suspect →
      Completes c (.request :: .targetStates :: logParts) s
        (RetrainEntered p e s)
        (fun t => WaitingCommandsSent p s t ∧ (getPort t.bridge p).discards ≤
            min (e.discards + (depth e + waitingCount s p) + 1) 65535 ∧ (condEntry t.log (retrainKind p)).count =
          min ((condEntry s.log (retrainKind p)).count + 1) 255)) ∧
    (x.state = .retrain → ∃ q, exec c s = .next (onPort p (fun _ => q) s) ∧ up q) ∧
    (x.state = .down → ∃ t, exec c s = .next t ∧ up (getPort t.bridge p) ∧
      isActive t (downKind p) = false ∧ Only [.ports, .conditions] s t)

/-- A good frame for another node, which its reader, if it has one, has taken, is routed by the node table and,
where no filter entry matches it or the first that matches passes it or carries an open guard, offered to the other
port, with that guard's mark; a port that carries nothing and a full queue count a discard, and the full queue logs
FORWARD_DROP; BLOCK drops it; the deciding entry's hit count rises (R7, R9, R11, R12, R14, R15).  A reader takes a
frame alike whatever its destination (R7).  A frame for the own node that is no MGMT or ACK frame is dropped after its
reader, and a frame of source 63 at once, each with a discard, and in RETRAIN and DOWN a frame that is not LINKCTL is
counted and discarded (R1, R8).  A FAULTSTOP that the reader brings is entered before the frame goes on (log entry 23);
that source 63 goes before LINKCTL, and that RETRAIN and DOWN count no discard, is the model's reading (log entries 14
and 15). -/
def Obligations.FramesRouted : Prop :=
  (∀ (p : Port) (clean : Bool) (bytes : List Byte) (f : Frame) (s : State), StopSettled s →
    checkFrame clean bytes = some f → f.src ≠ 63 → f.cls ≠ .linkctl →
    carries (getPort s.bridge p) = true → f.dst ≠ s.bridge.ownNode →
    let c := Instr.frameReceived p clean bytes
    let counted := onPort p (fun r => { r with received := min (r.received + 1) 65535 }) s
    let u := settle (offerReaders f counted)
    let o := getPort u.bridge (otherPort p)
    let side := s.bridge.nodes[ix 63 f.dst].side
    let offered := fun (v : State) (mark : Option GuardKind) =>
      (carries o = false → exec c s = .next
        (onPort (otherPort p) (fun r => { r with discards := min (r.discards + 1) 65535 }) v)) ∧
      (carries o = true → depth o < 16 → passCount o < 12 →
        ∃ q, exec c s = .next (onPort (otherPort p) (fun _ => q) v) ∧ Joined o q ⟨f, false, mark⟩) ∧
      (carries o = true → 16 ≤ depth o ∨ 12 ≤ passCount o →
        CompletesFrom c (.filters :: logParts) s u
          (fun t => passCount (getPort t.bridge (otherPort p)) ≤ passCount o ∧
            (getPort t.bridge (otherPort p)).discards = min (o.discards + 1) 65535 ∧
            t.bridge.filters = v.bridge.filters)
          (fun t => (condEntry t.log .forwardDrop).count =
            min ((condEntry u.log .forwardDrop).count + 1) 255))
    (f.cls ≠ .sense → f.cls ≠ .scan → u = counted) ∧
    (f.dst ≠ 63 → side = portSide p → exec c s = .next u) ∧
    (f.dst = 63 ∨ side ≠ portSide p →
      ((∀ i : Fin 24, ¬Fits f s.bridge.filters[i]) → offered u none) ∧
      (∀ i : Fin 24, Decides s.bridge f i →
        let e := s.bridge.filters[i]
        let hit := { u with bridge := { u.bridge with
          filters := s.bridge.filters.set i { e with hits := min (e.hits + 1) 65535 } } }
        (e.action = .block → exec c s = .next hit) ∧
        (e.action = .pass → offered hit none) ∧
        (∀ g, e.action = .guard g → guardClosed u g = false → offered hit (some g))))) ∧
  (∀ (p : Port) (clean : Bool) (bytes : List Byte) (f : Frame) (s : State), StopSettled s →
    checkFrame clean bytes = some f →
    let c := Instr.frameReceived p clean bytes
    let x := getPort s.bridge p
    let counted := onPort p (fun r => { r with received := min (r.received + 1) 65535 }) s
    let u := settle (offerReaders f counted)
    let dropped := fun v : State => exec c s =
      .next (onPort p (fun r => { r with discards := min (r.discards + 1) 65535 }) v)
    (∀ d, offerReaders { f with dst := d } counted = offerReaders f counted) ∧
    (f.src = 63 → dropped counted) ∧
    (f.src ≠ 63 → f.cls ≠ .linkctl → x.state = .retrain ∨ x.state = .down → exec c s = .next counted) ∧
    (f.src ≠ 63 → x.state = .up ∨ x.state = .suspect → f.dst = s.bridge.ownNode →
      (f.cls = .sense ∨ f.cls = .scan → dropped u) ∧
      (f.cls = .command ∨ f.cls = .reply ∨ f.cls = .notice → dropped counted)))

/-- A frame of any class whose deciding entry carries a closed guard is dropped, after its reader, if it has
one, has taken it: the entry's hit count rises, GUARD_BLOCK is logged, and no pass-through frame is added to the
other port's queue.  A guard is closed in RUN alone, while its side is in an automatic mode (R11, R12).  A FAULTSTOP
that the reader brings is entered before the guard is judged (log entry 23). -/
def Obligations.ClosedGuardsBlock : Prop :=
  (∀ s : State,
    (guardClosed s .levelL = true ↔ s.mgmt.mode = .run ∧ s.level.left.vars.mode ≠ .manual) ∧
    (guardClosed s .levelR = true ↔ s.mgmt.mode = .run ∧ s.level.right.vars.mode ≠ .manual) ∧
    (guardClosed s .feedL = true ↔ s.mgmt.mode = .run ∧ s.feed.left.vars.mode = .auto) ∧
    (guardClosed s .feedR = true ↔ s.mgmt.mode = .run ∧ s.feed.right.vars.mode = .auto)) ∧
  (∀ (p : Port) (clean : Bool) (bytes : List Byte) (f : Frame) (i : Fin 24) (g : GuardKind) (s : State),
    StopSettled s → checkFrame clean bytes = some f → f.src ≠ 63 → f.cls ≠ .linkctl →
    carries (getPort s.bridge p) = true → f.dst ≠ s.bridge.ownNode →
    f.dst = 63 ∨ s.bridge.nodes[ix 63 f.dst].side ≠ portSide p →
    Decides s.bridge f i → s.bridge.filters[i].action = .guard g →
    let counted := onPort p (fun r => { r with received := min (r.received + 1) 65535 }) s
    let u := settle (offerReaders f counted)
    (f.cls ≠ .sense → f.cls ≠ .scan → u = counted) ∧
    (guardClosed u g = true → CompletesFrom (.frameReceived p clean bytes) (.filters :: logParts) s u
      (fun t => t.bridge.filters[i].hits = min (s.bridge.filters[i].hits + 1) 65535 ∧
        (∀ j : Fin 24, j ≠ i → t.bridge.filters[j] = s.bridge.filters[j]) ∧
        passCount (getPort t.bridge (otherPort p)) ≤ passCount (getPort u.bridge (otherPort p)))
      (fun t => (condEntry t.log .guardBlock).count =
        min ((condEntry u.log .guardBlock).count + 1) 255)))

/-- The window timer returns a SUSPECT port to UP, the settle timer stops, the DOWN retry timer begins an
attempt and runs again, and the sync timer sends a sync frame and runs again (R2, R4, R5); an attempt's first
sync 2 ms after its start, a sync that waits for the line, and the settle timer, which a return from SUSPECT does
not start, are the model's reading (log entries 12, 16 and 69). -/
def Obligations.PortTimersExpire : Prop :=
  ∀ (p : Port) (s : State), StopSettled s →
    let x := getPort s.bridge p
    (x.state = .suspect → x.windowTimer.isSome = true → exec (.windowTimerExpires p) s =
      .next (onPort p (fun _ => { x with state := .up, window := 0, windowTimer := none }) s)) ∧
    (x.settle.isSome = true → exec (.settleTimerExpires p) s =
      .next (onPort p (fun _ => { x with settle := none }) s)) ∧
    (x.state = .down → x.retry.isSome = true → exec (.downRetryTimerExpires p) s =
      .next (onPort p (fun _ => { x with retry := some 1000, attempt := some 20, sync := some 2 }) s)) ∧
    (x.sync.isSome = true → ∃ q, exec (.syncTimerExpires p) s = .next (onPort p (fun _ => q) s) ∧
      q.sync = some 2 ∧ q.state = x.state ∧ q.attempt = x.attempt ∧
      (x.sending = none → x.syncs = [] → q.sending = some (syncFrame s.bridge.ownNode)) ∧
      (x.sending.isSome = true → q.syncs = x.syncs ++ [syncFrame s.bridge.ownNode]))

/-- A retrain attempt that passes without a sync begins another one, the third puts the port DOWN with
LINK_x_DOWN active, and an attempt in DOWN leaves it DOWN (R4, R5); the first sync falls due 2 ms after an
attempt's start (log entry 16). -/
def Obligations.RetrainAttemptEnds : Prop :=
  ∀ (p : Port) (s : State), StopSettled s → (getPort s.bridge p).attempt.isSome = true →
    let x := getPort s.bridge p
    (x.state = .retrain → x.retrains < 2 → exec (.retrainAttemptEnds p) s = .next (onPort p (fun _ =>
      { x with retrains := x.retrains + 1, attempt := some 20, sync := some 2 }) s)) ∧
    (x.state = .retrain → 2 ≤ x.retrains → Completes (.retrainAttemptEnds p) logParts s
      (fun t => (getPort t.bridge p).state = .down ∧ (getPort t.bridge p).retrains = 3 ∧
        (getPort t.bridge p).attempt = none ∧ (getPort t.bridge p).sync = none ∧
        (getPort t.bridge p).retry = some 1000)
      (fun t => isActive t (downKind p) = true)) ∧
    (x.state = .down → exec (.retrainAttemptEnds p) s = .next (onPort p (fun _ =>
      { x with attempt := none, sync := none }) s))

/-- When a sending ends, the port begins the next frame: a sync that waits, else, in UP or SUSPECT, the
oldest urgent frame, else the oldest normal one (R14).  That syncs go first is the model's choice (log entry 12). -/
def Obligations.SendingsFollow : Prop :=
  ∀ (p : Port) (s : State), StopSettled s → (getPort s.bridge p).sending.isSome = true →
    let x := { getPort s.bridge p with sending := none }
    let next := fun q : PortRec => exec (.frameSendEnds p) s = .next (onPort p (fun _ => q) s)
    (∀ y ys, x.syncs = y :: ys → next { x with sending := some y, syncs := ys }) ∧
    (x.syncs = [] → carries x = true → ∀ f fs, x.urgentQ = f :: fs →
      next { x with sending := some f, urgentQ := fs }) ∧
    (x.syncs = [] → carries x = true → x.urgentQ = [] → ∀ f fs, x.normalQ = f :: fs →
      next { x with sending := some f, normalQ := fs }) ∧
    (x.syncs = [] → (carries x = false ∨ depth x = 0) → next x)

/-- An own frame is offered to the port of its destination's side, Port A for ANY: dropped and counted in
RETRAIN and DOWN, else admitted while the queue has a place, else refused.  A freed place admits one waiting own
frame: the waiting reply, which ends its request unless a fetch goes on or a control reset is to follow, else the
oldest waiting notice for the port, else the first waiting command of the target table (R16, R169, R174, R175). -/
def Obligations.WaitingFramesAdmitted : Prop :=
  (∀ (b : Bridge) (f : Frame),
    let p := if b.nodes[ix 63 f.dst].side = .B then Port.B else .A
    let r := getPort b p
    let o := offerOwn b f
    portFor b f.dst = p ∧
    (carries r = false → o.2 = .dropped ∧
      o.1 = modPort b p (fun r => { r with discards := min (r.discards + 1) 65535 })) ∧
    (carries r = true → depth r < 16 →
      o.2 = .admitted ∧ ∃ q, o.1 = modPort b p (fun _ => q) ∧ Joined r q ⟨f, true, none⟩) ∧
    (carries r = true → 16 ≤ depth r → o.2 = .refused ∧ o.1 = b)) ∧
  ∀ (p : Port) (s : State), StopSettled s → carries (getPort s.bridge p) = true →
    depth (getPort s.bridge p) < 16 →
    let c := Instr.waitingFrameAdmitted p
    let joined := fun (t : State) (f : Frame) =>
      Joined (getPort s.bridge p) (getPort t.bridge p) ⟨f, true, none⟩ ∧
        getPort t.bridge (otherPort p) = getPort s.bridge (otherPort p)
    (∀ f, s.mgmt.waitingReply = some (p, f) →
      ∃ t, exec c s = .next t ∧ joined t f ∧ t.mgmt.waitingReply = none ∧ Only [.ports, .request] s t ∧
        t.mgmt.request = s.mgmt.request.bind afterReply ∧ t.mgmt.lastBusy = s.mgmt.lastBusy) ∧
    ((∀ f, s.mgmt.waitingReply ≠ some (p, f)) → ∀ k f, s.log.waiting.find? (·.2.1 == p) = some (k, p, f) →
      ∃ t, exec c s = .next t ∧ joined t f ∧
        t.log.waiting = s.log.waiting.filter (·.1 != k) ∧ Only [.ports, .notices] s t) ∧
    ((∀ f, s.mgmt.waitingReply ≠ some (p, f)) → s.log.waiting.all (·.2.1 != p) = true → ∀ i : Fin 7, ∀ f,
      s.disp.targets[i].waiting = some (p, f) →
      (∀ j : Fin 7, j < i → ∀ g, s.disp.targets[j].waiting ≠ some (p, g)) →
      ∃ t, exec c s = .next t ∧ joined t f ∧ t.disp.targets[i].waiting = none ∧
        t.disp.targets[i].vars.ackTimer = some s.disp.targets[i].row.timeout ∧
        (∀ j : Fin 7, j ≠ i → t.disp.targets[j] = s.disp.targets[j]) ∧ Only [.ports, .targetStates] s t)

/-! ### Intake, travel and geometry -/

/-- A SENSE frame is read by the valid entries that name its source and channel, in index order, and by no other.
An entry applied to a payload that holds its bytes reads the raw value, scales it to the nearest whole number, a
half away from zero, brings it into its slot's role and writes its slot whole, counting in the entry; the slot's
consumer is told, and SLOT_STALE follows the slots in use; a payload too short is logged and writes nothing (R21 to
R25, R27, and 2.1).  That the consumer is told before SLOT_STALE is evaluated, a FAULTSTOP entry at the entries'
end, and the order of entries of one frame that write different slots are the model's (log entries 22, 23 and
70). -/
def Obligations.EntriesWriteTheirSlot : Prop :=
  (∀ (payload : List Byte) (i : Fin 24) (s : State),
    let e := s.intake.entries[i].entry
    let t := applyEntry payload s i
    (∀ raw, rawValue e payload = some raw →
      let v := intoRole e.slot (scaleRaw e raw)
      t.intake.slots[ix 8 e.slot] = ⟨v.1, v.2, 0, e.limit, some i.val⟩ ∧
        (∀ j : Fin 9, j ≠ ix 8 e.slot → t.intake.slots[j] = s.intake.slots[j]) ∧
        t.intake.entries[i] = ⟨e, min (s.intake.entries[i].applied + 1) 65535⟩ ∧
        (∀ j : Fin 24, j ≠ i → t.intake.entries[j] = s.intake.entries[j]) ∧ Only senseParts s t ∧
        (let w := { s with intake := t.intake }
         let told := fun x : State => t = setLevelKind .slotStale (staleNamed t.intake) x
         (e.slot = 0 → told (travelCount v.1 w)) ∧ (e.slot = 1 → told (travelSpeed v.1 w)) ∧
         (e.slot = 2 ∨ e.slot = 3 ∨ e.slot = 4 →
           told (levelUpdate e.slot v.1 v.2 (levelUpdate e.slot v.1 v.2 w .left) .right)) ∧
         (e.slot = 5 → told (feedUpdate .left v.1.toNat w)) ∧
         (e.slot = 6 → told (feedUpdate .right v.1.toNat w)) ∧
         (e.slot = 7 → told (extension .left v.1 w)) ∧ (e.slot = 8 → told (extension .right v.1 w)))) ∧
    (payload.length < e.offset + e.width →
      t = occur .senseMalformed s ∧ t.intake = s.intake ∧ Only logParts s t)) ∧
  (∀ (e : IntakeEntry) (payload : List Byte) (raw v : Int),
    let n := numberOf ((payload.drop e.offset).take e.width)
    let half : Int := 2 ^ (8 * e.width - 1)
    (e.offset + e.width ≤ payload.length → e.signed = false → rawValue e payload = some (n : Int)) ∧
    (e.offset + e.width ≤ payload.length → 0 < e.width → e.signed = true →
      ∃ x, rawValue e payload = some x ∧ -half ≤ x ∧ x < half ∧ x % (2 * half) = n) ∧
    (0 < e.divisor →
      NearestAway (raw * e.mult) e.divisor (scaleRaw e raw - e.add)) ∧
    (let q := intoRole 0 v
     q.2 = .good ∧ -2147483648 ≤ q.1 ∧ q.1 < 2147483648 ∧ (q.1 - v) % 4294967296 = 0) ∧
    (∀ slot lo hi, (slot, lo, hi) ∈ [(1, -3000, 3000), (2, -5000, 5000), (3, -5000, 5000),
        (4, -1500, 1500), (5, 0, 600), (6, 0, 600), (7, 0, 4000), (8, 0, 4000)] →
      intoRole slot v = if v < lo then (lo, .clamped) else if hi < v then (hi, .clamped) else (v, .good))) ∧
  (∀ (p : Port) (clean : Bool) (bytes : List Byte) (f : Frame) (s : State), StopSettled s →
    checkFrame clean bytes = some f → f.cls = .sense → f.src ≠ 63 →
    carries (getPort s.bridge p) = true → f.dst ≠ s.bridge.ownNode → f.dst ≠ 63 →
    s.bridge.nodes[ix 63 f.dst].side = portSide p →
    let counted := onPort p (fun r => { r with received := min (r.received + 1) 65535 }) s
    let reads := fun i : Fin 24 =>
      let e := s.intake.entries[i].entry
      e.valid && e.node == f.src && e.chan == f.chan
    exec (.frameReceived p clean bytes) s = .next
      (settle (((List.finRange 24).filter reads).foldl (applyEntry (payloadOf f)) counted)))

/-- A GOOD or CLAMPED slot that reaches its staleness limit becomes STALE with its age at the limit and its
value kept; its consumer is told, where it takes STALE reports, and SLOT_STALE then follows the slots in use (R26,
R27, and 2.1).  An expiry given early puts the age at the limit too (log entry 19), the consumer is told before
SLOT_STALE is evaluated (log entry 22), and a FAULTSTOP entry comes at the end (log entry 23). -/
def Obligations.SlotStalenessExpires : Prop :=
  ∀ (i : Fin 9) (s : State),
    s.intake.slots[i].quality = .good ∨ s.intake.slots[i].quality = .clamped →
    Completes (.slotStalenessExpires i) (.slots :: consumerParts) s
      (fun t => t.intake.slots[i] =
          { s.intake.slots[i] with quality := .stale, age := s.intake.slots[i].limit } ∧
        ∀ j : Fin 9, j ≠ i → t.intake.slots[j] = s.intake.slots[j])
      (fun t => isActive t .slotStale = staleNamed t.intake) ∧
    (let x := s.intake.slots[i]
     let w := { s with intake := { s.intake with
       slots := s.intake.slots.set i { x with quality := .stale, age := x.limit } } }
     let gives := fun y : State =>
       exec (.slotStalenessExpires i) s = .next (settle (setLevelKind .slotStale (staleNamed w.intake) y))
     let n := i.val
     (n = 1 → gives (travelSpeedStale w)) ∧
     (n = 2 ∨ n = 3 ∨ n = 4 → gives (levelStale n (levelStale n w .left) .right)) ∧
     (n = 5 → gives (feedStale .left w)) ∧ (n = 6 → gives (feedStale .right w)) ∧
     (n = 0 ∨ n = 7 ∨ n = 8 → gives w))

/-- The park timer's expiry in STOPPED makes the motion state PARKED with the timer stopped, and the
receivers of the motion report take it: the zones, both levelling sides and both feed sides in RUN, the Voter and
the Mat Map Unit (R36, R37, R71, R94, R111, R130, R148), in the order of log entries 22, 63 and 71; a FAULTSTOP
entry comes at the end (log entry 23). -/
def Obligations.ParkTimerExpires : Prop :=
  ∀ s : State, s.travel.motion = .stopped → s.travel.park.isSome = true →
    Completes .parkTimerExpires (.motion :: motionParts) s
      (fun t => t.travel.motion = .parked ∧ t.travel.park = none ∧ t.level.motion = .parked)
      (fun t => t.feed.motion = .parked ∧ t.map.motion = .parked) ∧
    ∃ t, exec .parkTimerExpires s = .next (settle t) ∧
      MotionTold .parked { s with travel := { s.travel with motion := .parked, park := none } } t

/-- A count of slot 0 becomes the baseline.  A first count or a delta of 0 does no more, a delta above 10000
cm is logged as TRAVEL_JUMP, and any other moves the station, clamped to 32 bits, raises the high-water station
with it, has both levelling sides evaluate their targets and closes the rows crossed (R31 to R33, R118, R150).  A
speed of slot 1 is told to the Voter and gives the motion state its class, a new one with the motion report to the
zones, both levelling sides and both feed sides in RUN, the Voter and the Mat Map Unit (R35 to R37).  A width of
slot 7 or 8 gives the half widths and the active columns, a change with the report to the zones, the feed sides and
the Mat Map Unit (R38, R129).  The receivers' order is the model's choice (log entries 22, 63 and 71). -/
def Obligations.TravelCountsMoveTheStation : Prop :=
  (∀ (n : Int) (s : State),
    let t := travelCount n s
    let base := { s.travel with baseline := some n }
    (s.travel.baseline = none → t = { s with travel := base }) ∧
    (∀ b, s.travel.baseline = some b →
      let d := Int.bmod (n - b) 4294967296
      let moved := max (-2147483648) (min 2147483647 (s.travel.station + d))
      (10000 < d.natAbs → t = occur .travelJump { s with travel := base }) ∧
      (d = 0 → t = { s with travel := base }) ∧
      (d ≠ 0 → d.natAbs ≤ 10000 →
        t.travel = { base with station := moved, highWater := max s.travel.highWater moved } ∧
          t.map.station = moved ∧ Only (.position :: stationParts) s t ∧
          StationTold { s with travel := t.travel } t))) ∧
  (∀ (v : Int) (s : State),
    let stop : Int := s.travel.params.stopSpeed
    let moves := fun (c : Motion) (speed : Nat) (t : State) =>
      t.voter.travelInput = speed ∧
      (∃ u, VotesApplied { s.voter with travelInput := speed } s u ∧
        (c = s.travel.motion ∨ (c = .stopped ∧ s.travel.motion = .parked) → t = u) ∧
        (c ≠ s.travel.motion → c ≠ .stopped ∨ s.travel.motion ≠ .parked →
          MotionTold c { u with travel := t.travel } t)) ∧
      (c = s.travel.motion ∨ (c = .stopped ∧ s.travel.motion = .parked) → t.travel = s.travel ∧
        t.level = s.level ∧ t.feed = s.feed ∧ t.map = s.map) ∧
      (c ≠ s.travel.motion → c ≠ .stopped ∨ s.travel.motion ≠ .parked →
        t.travel = { s.travel with
          motion := c
          park := if c = .stopped then some (s.travel.params.parkTime * 1000) else none } ∧
        t.level.motion = c ∧ t.feed.motion = c ∧ t.map.motion = c ∧
        t.voter.travelRight = decide (c = .forward ∨ c = .reverse))
    (stop < v → moves .forward v.natAbs (travelSpeed v s)) ∧
    (v < -stop → moves .reverse v.natAbs (travelSpeed v s)) ∧
    (-stop ≤ v → v ≤ stop → moves .stopped v.natAbs (travelSpeed v s)) ∧
    moves .stopped 0 (travelSpeedStale s)) ∧
  (∀ (d : Side) (v : Int) (s : State),
    let t := extension d v s
    let heldLeft := if d = .left then v.toNat else s.travel.heldLeft
    let heldRight := if d = .right then v.toNat else s.travel.heldRight
    let left := s.travel.params.baseWidth / 2 + heldLeft
    let right := s.travel.params.baseWidth / 2 + heldRight
    let lo := 32 - (left + 199) / 200
    let hi := min 63 (31 + (right + 199) / 200)
    t.travel = { s.travel with
      heldLeft := heldLeft
      heldRight := heldRight
      leftHalf := left
      rightHalf := right
      cLo := lo
      cHi := hi } ∧
    (left ≠ s.travel.leftHalf ∨ right ≠ s.travel.rightHalf ∨ lo ≠ s.travel.cLo ∨ hi ≠ s.travel.cHi →
      t.feed.leftHalf = left ∧ t.feed.rightHalf = right ∧ t.map.cLo = lo ∧ t.map.cHi = hi ∧
      (let zones := (List.finRange 16).foldl (fun u z => reviewZone z u) { s with travel := t.travel }
       let u := feedGeometry left right (s.travel.params.baseWidth / 2) zones
       t = { u with map := { u.map with cLo := lo, cHi := hi } }) ∧
      ∀ (e : Side) (l : Nat), (feedVars s e).state = .running ∨ (feedVars s e).state = .starved →
        (feedVars s e).held = some l → t.feed.baseHalf ≠ s.feed.baseHalf ∨ (match e with
          | .left => left ≠ s.feed.leftHalf
          | .right => right ≠ s.feed.rightHalf) →
        FeedFollows t.feed e (getFeed s.feed e).entry l (feedVars t e)) ∧
    (left = s.travel.leftHalf → right = s.travel.rightHalf → lo = s.travel.cLo → hi = s.travel.cHi →
      t = { s with travel := t.travel }))

/-! ### Resistance measurement -/

/-- The counter's limits end a conversion with a cause, by the mode, and any other count goes on to a
resistance; a count that ends there leaves the line's last resistance at none (R50). -/
def Obligations.CounterLimitsEndTheConversion : Prop :=
  (∀ (ref : ReferenceEntry) (e : SensorEntry) (nRef : Nat),
    (ref.mode = .window → convert ref e nRef 0 = (.fails .opened, none) ∧
      convert ref e nRef 65535 = (.fails .short, none)) ∧
    (ref.mode = .period → convert ref e nRef 0 = (.fails .short, none) ∧
      convert ref e nRef 65535 = (.fails .opened, none)) ∧
    (∀ n, 0 < n → n < 65535 → (convert ref e nRef n).2 = some (resistance ref.mode ref.rRef nRef n))) ∧
  (∀ (c : Counting) (nRef : Nat) (s : State), s.rmu.sweepRef = some nRef → ∀ n, n = 0 ∨ n = 65535 →
    ((recordCount c n s).1.rmu.lines[lineIx c.line]).vars.lastResistance = none ∧
      ∀ t clamped, (recordCount c n s).2 ≠ some (.temp t clamped))

/-- The resistance is the nearest whole number to the quotient of the two counts, a half rounded upward.  Above
R_open the count ends with OPEN, below R_short with SHORT, and between them it gives a temperature: the nearest
whole number to 100 times R_x - R0, divided by S, a half away from zero, with its value brought within -400 to
3000 and marked CLAMPED where that changes it (R51, R52). -/
def Obligations.ResistanceIsNearest : Prop :=
  (∀ rRef nRef n : Nat,
    let up := fun p d r : Nat => -(d : Int) < 2 * ((r : Int) * d - p) ∧ 2 * ((r : Int) * d - p) ≤ d
    (0 < n → up (rRef * nRef) n (resistance .window rRef nRef n)) ∧
    (0 < nRef → up (rRef * n) nRef (resistance .period rRef nRef n))) ∧
  ∀ (ref : ReferenceEntry) (e : SensorEntry) (nRef n : Nat), 0 < n → n < 65535 →
    let r := resistance ref.mode ref.rRef nRef n
    (e.opened < r → convert ref e nRef n = (.fails .opened, some r)) ∧
    (r ≤ e.opened → r < e.short → convert ref e nRef n = (.fails .short, some r)) ∧
    (e.short ≤ r → r ≤ e.opened → 0 < e.sens → ∃ x : Int,
      NearestAway (((r : Int) - e.r0) * 100) e.sens x ∧
      convert ref e nRef n =
        (if x < -400 then .temp (-400) true else if 3000 < x then .temp 3000 true else .temp x false, some r))

/-- A reference count becomes the last reference count, and the next count is the first listed line's.  In
the window it is held; outside it the held one serves for up to three sweeps more, else the sweep has none and
REF_FAIL is active (R45, R48, R49). -/
def Obligations.ReferenceCountEnds : Prop :=
  ∀ (ticks : Nat) (c : Counting) (l : Nat) (rest : List Nat) (s : State),
    s.rmu.counting = some c → c.line = 0 → s.rmu.sweepList = l :: rest →
    let n := min ticks 65535
    let age := min (s.rmu.refAge + 1) 4
    let good := s.rmu.ref.refLo ≤ n ∧ n ≤ s.rmu.ref.refHi
    let serves := s.rmu.heldRef.isSome = true ∧ age < 4
    Completes (.referenceCountEnds ticks) (.counting :: logParts) s
      (fun t => t.rmu.lastRef = some n ∧
        (∃ limit, t.rmu.counting = some ⟨l, 0, .first, none, limit⟩) ∧
        (good → t.rmu.heldRef = some n ∧ t.rmu.sweepRef = some n ∧ t.rmu.refAge = 0) ∧
        (¬good → t.rmu.heldRef = s.rmu.heldRef ∧ t.rmu.refAge = age ∧
          (serves → t.rmu.sweepRef = s.rmu.heldRef) ∧ (¬serves → t.rmu.sweepRef = none)))
      (fun t => (good → isActive t .refFail = false) ∧ (¬good → ¬serves → isActive t .refFail = true))

/-- A first count without a reference gives NO_REF and the sweep goes on; a reading that passes its tests ends the
measurement ACCEPTED, with LINE_FAILED re-evaluated, the temperature reported to the zones, and the next listed
line counted; one that fails is not delivered and the line is counted again at once (R45, R49, R53, R55, R56, R58,
R60).  That a count without a reference leaves the last resistance as it was, the zones' order, and a FAULTSTOP
entry after the reports and the next count's start are the model's reading (log entries 23, 28 and 59). -/
def Obligations.FirstCountEnds : Prop :=
  ∀ (ticks : Nat) (c : Counting) (s : State),
    s.rmu.counting = some c → c.line ≠ 0 → c.phase = .first →
    let n := min ticks 65535
    let x := s.rmu.lines[lineIx c.line]
    let vars := fun t : State => t.rmu.lines[lineIx c.line].vars
    (s.rmu.sweepRef = none → Completes (.firstCountEnds ticks) countParts s
      (fun t => vars t = { x.vars with lastRaw := some n, lastResult := some .noReference })
      (fun t => t.heat = s.heat ∧ ∀ l, s.rmu.sweepList[c.place + 1]? = some l →
        ∃ limit, t.rmu.counting = some ⟨l, c.place + 1, .first, none, limit⟩)) ∧
    (∀ nRef r, s.rmu.sweepRef = some nRef → (convert s.rmu.ref x.entry nRef n).2 = r →
      let taken := { x.vars with lastRaw := some n, lastResistance := r }
      (∀ v clamped, (convert s.rmu.ref x.entry nRef n).1 = .temp v clamped →
        (∀ l, x.vars.lastAccepted = some l → (v - l).natAbs ≤ x.entry.jump) →
        exec (.firstCountEnds ticks) s = .next (settle
          (lineEnded c.line c.place (lineAccepted v clamped taken) (some (v, clamped)) s)) ∧
        Completes (.firstCountEnds ticks) countParts s
          (fun t => vars t = lineAccepted v clamped taken)
          (fun t => isActive t .lineFailed = t.rmu.lines.toList.any (·.vars.state == .failed))) ∧
      (∀ reading, (convert s.rmu.ref x.entry nRef n).1 = reading →
        ((∃ cause, reading = .fails cause) ∨ ∃ v clamped l, reading = .temp v clamped ∧
          x.vars.lastAccepted = some l ∧ x.entry.jump < (v - l).natAbs) →
        Completes (.firstCountEnds ticks) [.counting, .lineStates] s
          (fun t => vars t = taken ∧
            ∃ limit, t.rmu.counting = some ⟨c.line, c.place, .retry, some reading, limit⟩)
          (fun _ => True)))

/-- A retry decides the measurement: OPEN or SHORT fails; a temperature is accepted within the jump limit of
the last accepted one, or, beyond it, within the jump limit of the first count's; else it fails with JUMP
(R54 to R57).  LINE_FAILED follows the lines, an ACCEPTED temperature or the failure is reported to the zones, and
the next listed line is counted (R45, R58, R60).  The zones' order is the model's choice (log entry 59), and so is
the reading that a FAULTSTOP entry comes after the reports and the next count's start (log entry 23). -/
def Obligations.RetryCountEnds : Prop :=
  ∀ (ticks : Nat) (c : Counting) (nRef : Nat) (s : State),
    s.rmu.counting = some c → c.line ≠ 0 → c.phase = .retry → s.rmu.sweepRef = some nRef →
    let n := min ticks 65535
    let x := s.rmu.lines[lineIx c.line]
    let r := convert s.rmu.ref x.entry nRef n
    let taken := { x.vars with lastRaw := some n, lastResistance := r.2 }
    let ends := fun (v : LineVars) (temp : Option (Int × Bool)) =>
      exec (.retryCountEnds ticks) s = .next (settle (lineEnded c.line c.place v temp s)) ∧
      Completes (.retryCountEnds ticks) countParts s
        (fun t => t.rmu.lines[lineIx c.line].vars = v)
        (fun t => isActive t .lineFailed = t.rmu.lines.toList.any (·.vars.state == .failed))
    (∀ cause, r.1 = .fails cause → ends (lineFails cause taken) none) ∧
    (∀ v clamped, r.1 = .temp v clamped →
      (x.vars.lastAccepted = none → ends (lineAccepted v clamped taken) (some (v, clamped))) ∧
      (∀ l, x.vars.lastAccepted = some l →
        ((v - l).natAbs ≤ x.entry.jump → ends (lineAccepted v clamped taken) (some (v, clamped))) ∧
        (x.entry.jump < (v - l).natAbs →
          (∀ v1 k, c.firstReading = some (.temp v1 k) →
            ((v - v1).natAbs ≤ x.entry.jump → ends (lineAccepted v clamped taken) (some (v, clamped))) ∧
            (x.entry.jump < (v - v1).natAbs → ends (lineFails .jump taken) none)) ∧
          ((∀ v1 k, c.firstReading ≠ some (.temp v1 k)) → ends (lineFails .jump taken) none))))

/-- The 40 ms limit of a PERIOD mode count ends it with the value 65535 (R47). -/
def Obligations.PeriodLimitEndsTheCount : Prop :=
  ∀ (c : Counting) (s : State), s.rmu.counting = some c → c.limit.isSome = true →
    exec .periodLimitExpires s =
      exec (if c.line = 0 then .referenceCountEnds 65535
        else match c.phase with
          | .first => .firstCountEnds 65535
          | .retry => .retryCountEnds 65535) s ∧
    Completes .periodLimitExpires countParts s
      (fun t => c.line = 0 → s.rmu.sweepList ≠ [] → t.rmu.lastRef = some 65535)
      (fun _ => True)

/-- The health of a line: an ACCEPTED result makes a line that is not FAILED GOOD; a line that is not FAILED
becomes FAILED with its third fault; and a FAILED line needs eight ACCEPTED results, none FAILED between
(R55, and 4.8). -/
def Obligations.LineHealth : Prop :=
  ∀ (v : LineVars) (t : Int) (clamped : Bool) (c : LineCause),
    (v.state ≠ .failed → (lineAccepted t clamped v).state = .good ∧
      (lineAccepted t clamped v).faults = 0 ∧ (lineAccepted t clamped v).lastAccepted = some t) ∧
    (v.state ≠ .failed → v.faults = 0 →
      (lineFails c v).state = .suspect ∧ (Nat.repeat (lineFails c) 2 v).state = .suspect ∧
      (Nat.repeat (lineFails c) 3 v).state = .failed ∧
      (Nat.repeat (lineFails c) 3 v).lastAccepted = v.lastAccepted) ∧
    (v.state = .failed →
      (∀ k, k < 8 → (Nat.repeat (lineAccepted t clamped) k (lineFails c v)).state = .failed) ∧
      (Nat.repeat (lineAccepted t clamped) 8 (lineFails c v)).state = .good)

/-! ### Heating and power -/

/-- A temperature that reaches its stale time is marked stale and kept, and its zone asks for no heat: its
demand is 0 and its heater line is off (R70, R71, R73, R81).  A line report makes a zone that names the line select
its source again and be evaluated; an ACCEPTED temperature refreshes a zone whose source line it is, which judges its
OVERTEMP, and such a zone on PRIMARY passes the temperature on to the zones that stand on it, with their buddy offset,
clamped, and marked CLAMPED where that or the measurement clamps (R60, R67 to R69, R77).  The order among zones is the
model's choice (log entry 72). -/
def Obligations.ZoneStaleExpires : Prop :=
  (∀ (z : Fin 16) (s : State), s.heat.zones[z].vars.temp.isSome = true →
    s.heat.zones[z].vars.stale = false →
    Completes (.zoneStaleExpires z) zoneParts s
      (fun t => t.heat.zones[z].entry = s.heat.zones[z].entry)
      (fun t =>
        let v := t.heat.zones[z].vars
        v.stale = true ∧ v.temp = s.heat.zones[z].vars.temp ∧ offState v.state = true ∧ v.demand = 0 ∧
          v.boost = 0 ∧ v.lineOn = false)) ∧
  (∀ (line : Nat) (temp : Option (Int × Bool)) (z : Fin 16) (s : State),
    let e := s.heat.zones[z].entry
    let t := zoneReport line temp s z
    let u := reselect z s
    let source := u.heat.zones[z].vars.source
    let named := e.primary = line ∨ e.spare = some line
    let sourced := (source = .primary ∧ e.primary = line) ∨ (source = .spare ∧ e.spare = some line)
    (¬named → t = s) ∧
    (named → temp = none ∨ ¬sourced → t = reviewZone z u) ∧
    (sourced → ∀ (n : Int) (clamped : Bool), temp = some (n, clamped) →
      let fresh := fun (a : Fin 16) (x : Int × Bool) =>
        let v := u.heat.zones[a].vars
        let w := t.heat.zones[a].vars
        let judged := (reviewZone a (modZoneVars u a fun y =>
          { y with temp := some x, age := 0, stale := false, overtemp := w.overtemp })).heat.zones[a].vars
        w.temp = some x ∧ w.age = 0 ∧ w.stale = false ∧ w.source = v.source ∧ w.state = judged.state ∧
        w.boost = judged.boost ∧ w.demand = judged.demand ∧
        (u.heat.zones[a].entry.enable = true →
          let ceiling := u.heat.zones[a].entry.ceiling
          (ceiling ≤ x.1 → w.overtemp = true) ∧ (x.1 ≤ ceiling - 50 → w.overtemp = false) ∧
          (ceiling - 50 < x.1 → x.1 < ceiling → w.overtemp = v.overtemp))
      let stands := fun a : Fin 16 => source = .primary ∧ u.heat.zones[a].entry.buddy = some z.val ∧
        u.heat.zones[a].vars.source = .buddy
      Only zoneParts u t ∧ fresh z (n, clamped) ∧
      ∀ a : Fin 16, a ≠ z →
        let raw := n + u.heat.zones[a].entry.buddyOffset
        let x := max (-400) (min 3000 raw)
        (stands a → fresh a (x, clamped || decide (x ≠ raw))) ∧
        (¬stands a →
          let v := u.heat.zones[a].vars
          let w := t.heat.zones[a].vars
          w.temp = v.temp ∧ w.age = v.age ∧ w.stale = v.stale ∧ w.source = v.source ∧
            w.state = v.state ∧ w.demand = v.demand ∧ w.overtemp = v.overtemp)))

/-- At a period start, which restarts the period timer, each line takes its zone's allocated duty unless it is
held off; within the period a line goes off when floor(period x duty / 255) ms have passed; a duty of 255
gives no such end (R79).  What is due is the model's form of the timers (log entries 2 and 21). -/
def Obligations.HeaterLinesFollowTheirDuty : Prop :=
  ∀ s : State,
    let period := s.power.entry.period * 1000
    let on := fun z : Fin 16 => period * s.heat.zones[z].vars.periodDuty / 255
    (period ≤ s.heat.elapsed → .heaterPeriodStart ∈ dueEvents s) ∧
    (∀ z : Fin 16, s.heat.zones[z].vars.lineOn = true → on z < period → on z ≤ s.heat.elapsed →
      .heaterOnTimeEnds z ∈ dueEvents s) ∧
    (StopSettled s → ∃ t, exec .heaterPeriodStart s = .next t ∧ t.heat.elapsed = 0 ∧
      (∀ z : Fin 16,
        let v := s.heat.zones[z].vars
        let d := if heldOff s.mgmt.mode v then 0 else v.alloc
        t.heat.zones[z].vars = { v with periodDuty := d, lineOn := decide (0 < d) }) ∧
      Only [.zoneStates, .heatTimer] s t) ∧
    (StopSettled s → ∀ z : Fin 16, s.heat.zones[z].vars.lineOn = true → on z < period →
      ∃ t, exec (.heaterOnTimeEnds z) s = .next t ∧
        t.heat.zones[z].vars = { s.heat.zones[z].vars with lineOn := false } ∧
        (∀ y : Fin 16, y ≠ z → t.heat.zones[y] = s.heat.zones[y]) ∧
        Only [.zoneStates, .heatTimer] s t) ∧
    (∀ z : Fin 16, s.heat.zones[z].vars.periodDuty = 255 → exec (.heaterOnTimeEnds z) s = .next s)

/-- An allocation serves the classes in order: a class that the rest of the budget covers is granted its demand
powers, the first that it does not cover is cut in proportion, and later ones get 0; so the grants stay within the
budget and what zones asked for (R91).  The result reaches the zones whose allocated duty or SHED flag changes, a
lower duty at once in the period, HEAT_SHED with its row flag, and the Voter (R80, R90, R92, R148).  A zone's source
is its primary, spare or buddy, and a zone that leaves PRIMARY stands in no longer for those that have it as their
buddy (R67, R69); its state, boost, demand duty and OVERTEMP follow its temperature, and a changed demand or state is
reported to its record, with ZONE_FAULT, ZONE_OVERTEMP and the heating right re-evaluated (R68, R71 to R78).  The
order within an allocation and an evaluation is the model's choice (log entry 79). -/
def Obligations.GrantsStayWithinTheBudget : Prop :=
  (∀ (budget : Nat) (recs : Vector AllocRec 16), (∀ i : Fin 16, recs[i].cls ≤ 3) →
    let out := allocateAll budget recs
    let asks := fun c : Nat => ((List.finRange 16).map fun i : Fin 16 =>
      if recs[i].cls = c then recs[i].rating * recs[i].demand / 255 else 0).sum
    let before := fun c : Nat => ((List.finRange 16).map fun i : Fin 16 =>
      if recs[i].cls < c then recs[i].rating * recs[i].demand / 255 else 0).sum
    (out.toList.map (·.granted)).sum ≤ budget ∧
    (∀ i : Fin 16, out[i].granted ≤ demandPower recs[i] ∧ out[i].alloc ≤ recs[i].demand ∧
      (out[i].shed = true ↔ out[i].alloc < recs[i].demand)) ∧
    (totalDemand recs ≤ budget → ∀ i : Fin 16, out[i].alloc = recs[i].demand) ∧
    (∀ i : Fin 16,
      let d := recs[i].rating * recs[i].demand / 255
      let c := recs[i].cls
      (before c + asks c ≤ budget → out[i].granted = d) ∧
      (budget < before c + asks c → before c ≤ budget → out[i].granted = d * (budget - before c) / asks c) ∧
      (budget < before c → out[i].granted = 0) ∧
      (out[i].granted = d → out[i].alloc = recs[i].demand) ∧
      (out[i].granted ≠ d → out[i].alloc = out[i].granted * 255 / recs[i].rating))) ∧
  (∀ s : State,
    let t := allocate s
    let p := s.power
    let budget := if p.sag = .sag ∨ p.sag = .recovering then p.entry.nominal * p.entry.sagPercent / 100
      else p.entry.nominal
    let recs := allocateAll budget p.records
    let shed := (List.finRange 16).any fun i : Fin 16 => recs[i].shed
    let demand := ((List.finRange 16).map fun i : Fin 16 => p.records[i].rating * p.records[i].demand / 255).sum
    t.power = { p with records := recs } ∧
    (∀ z : Fin 16,
      let x := s.heat.zones[z]
      let v := x.vars
      let y := t.heat.zones[z]
      let r := recs[z]
      let off := s.mgmt.mode ≠ .run ∨ v.overtemp = true ∨ v.state = .disabled ∨ v.state = .idle ∨ v.state = .fault
      y.entry = x.entry ∧
      (r.alloc = p.records[z].alloc → r.shed = p.records[z].shed → y = x) ∧
      (r.alloc ≠ p.records[z].alloc ∨ r.shed ≠ p.records[z].shed →
        (off ∨ v.periodDuty ≤ r.alloc → y.vars = { v with alloc := r.alloc, shed := r.shed }) ∧
        (¬off → r.alloc < v.periodDuty → y.vars = { v with
          alloc := r.alloc
          shed := r.shed
          periodDuty := r.alloc
          lineOn := v.lineOn && decide (s.heat.elapsed < p.entry.period * 1000 * r.alloc / 255) }))) ∧
    isActive t .heatShed = shed ∧ (shed = isActive s .heatShed → t.map = s.map) ∧
    (shed ≠ isActive s .heatShed → t.map.standing.getLsbD 3 = shed ∧
      (∀ b, b ≠ 3 → t.map.standing.getLsbD b = s.map.standing.getLsbD b) ∧
      t.map.row = if shed = true then s.map.row.map fun r => { r with flags := r.flags ||| 8 } else s.map.row) ∧
    (∃ u, u.voter = s.voter ∧ u.mgmt.mode = s.mgmt.mode ∧
      VotesApplied { s.voter with heatInput := demand } u t) ∧ Only allocParts s t) ∧
  (∀ (z : Fin 16) (s : State),
    let x := s.heat.zones[z]
    let e := x.entry
    let sound := fun line : Nat => s.rmu.lines[ix 18 (line - 1)].vars.state ≠ .failed
    let helps := fun b : Nat => s.heat.zones[ix 15 b].entry.enable = true ∧
      s.heat.zones[ix 15 b].vars.source = .primary
    let v := (selectOne z s).heat.zones[z].vars
    (sound e.primary → v.source = .primary) ∧
    (¬sound e.primary → (∀ l, e.spare = some l → sound l → v.source = .spare) ∧
      ((∀ l, e.spare = some l → ¬sound l) →
        (∀ b, e.buddy = some b → (helps b → v.source = .buddy) ∧ (¬helps b → v.source = .none)) ∧
        (e.buddy = none → v.source = .none))) ∧
    (v.source = x.vars.source ∨ v.source ≠ .none → v = { x.vars with source := v.source }) ∧
    (v.source ≠ x.vars.source → v.source = .none →
      v = { x.vars with source := .none, temp := none, age := 0, stale := false }) ∧
    (x.vars.source = .primary → ¬sound e.primary → ∀ a : Fin 16,
      let y := s.heat.zones[a].entry
      y.buddy = some z.val → ¬sound y.primary → y.spare = none →
      let w := (reselect z s).heat.zones[a].vars
      a ≠ z → w.source = .none ∧ (s.heat.zones[a].vars.source ≠ .none → w.temp = none))) ∧
  (∀ (z : Fin 16) (s : State),
    let x := s.heat.zones[z]
    let e := x.entry
    let t := reviewZone z s
    let v := t.heat.zones[z].vars
    let fed := s.power.records.set z { s.power.records[z] with
      demand := v.demand, state := v.state, rating := e.rating, cls := e.cls }
    let right := s.heat.master && (List.finRange 16).any fun i : Fin 16 =>
      let n := t.heat.zones[i].vars.state
      n == .standby || n == .warmup || n == .regulate
    ZoneEvaluated s.mgmt.mode s.heat.master s.travel x t.heat.zones[z] ∧
    (v.demand = x.vars.demand → v.state = x.vars.state → t.power = s.power) ∧
    (v.demand ≠ x.vars.demand ∨ v.state ≠ x.vars.state →
      t.power.records = allocateAll (budgetNow s.power) fed ∧
      t.voter.heatInput = ((List.finRange 16).map fun i : Fin 16 => fed[i].rating * fed[i].demand / 255).sum) ∧
    isActive t .zoneFault = (List.finRange 16).any (fun i : Fin 16 => t.heat.zones[i].vars.state == .fault) ∧
    isActive t .zoneOvertemp = (List.finRange 16).any (fun i : Fin 16 => t.heat.zones[i].vars.overtemp) ∧
    t.heat.rights = right ∧ (right ≠ s.heat.rights → t.voter.heatRight = right)) ∧
  (∀ (z : Fin 16) (t : Int) (clamped : Bool) (s : State),
    let x := s.heat.zones[z]
    let e := x.entry
    let v := (refreshOne z t clamped s).heat.zones[z].vars
    v.temp = some (t, clamped) ∧ v.age = 0 ∧ v.stale = false ∧ v.source = x.vars.source ∧
    (e.enable = false → v.overtemp = x.vars.overtemp) ∧
    (e.enable = true → (e.ceiling ≤ t → v.overtemp = true) ∧ (t ≤ e.ceiling - 50 → v.overtemp = false) ∧
      (e.ceiling - 50 < t → t < e.ceiling → v.overtemp = x.vars.overtemp))) ∧
  (∀ (e : ZoneEntry) (boost : Int) (v k : Nat),
    (v = 0 → boostAfter e boost v k = boost) ∧
    (0 < v → e.trigger * v ≤ k * 1000 → boostAfter e boost v k = min (boost + e.boostStep) e.boostMax) ∧
    (0 < v → k * 1000 < e.trigger * v → k = 0 → boostAfter e boost v k = max (boost - e.boostStep) 0) ∧
    (0 < v → k * 1000 < e.trigger * v → k ≠ 0 → boostAfter e boost v k = boost))

/-- The supply's falls and rises move the sag monitor as its table states, in every hub mode (R87).  That the
events of a comparator that is off change nothing, and what is kept of the line's standing, are the model's
reading (log entry 38). -/
def Obligations.SupplyMovesTheSagMonitor : Prop :=
  ∀ s : State, StopSettled s →
    let p := s.power
    (p.entry.select = 0 → exec .supplyFalls s = .next s ∧ exec .supplyRises s = .next s) ∧
    (p.entry.select ≠ 0 →
      exec .supplyFalls s = .next { s with power := match p.sag with
        | .normal => { p with below := true, sag := .dipping, debounce := some p.entry.debounce, recover := none }
        | .recovering => { p with below := true, sag := .sag, debounce := none, recover := none }
        | .dipping => { p with below := true }
        | .sag => { p with below := true } } ∧
      exec .supplyRises s = .next { s with power := match p.sag with
        | .dipping => { p with below := false, sag := .normal, debounce := none, recover := none }
        | .sag => { p with
            below := false, sag := .recovering, debounce := none, recover := some (p.entry.recover * 1000) }
        | .normal => { p with below := false }
        | .recovering => { p with below := false } })

/-- The debounce timer's expiry in DIPPING starts sag and the recover timer's in RECOVERING ends it:
SUPPLY_SAG, the Engine Speed Voter and the Mat Map Unit are told (R87, R88). -/
def Obligations.SagStartsAndEnds : Prop :=
  ∀ s : State,
    (s.power.sag = .dipping → s.power.debounce.isSome = true →
      Completes .debounceTimerExpires (.sag :: allocParts) s
        (fun t => t.power.sag = .sag ∧ t.power.debounce = none)
        (fun t => isActive t .supplySag = true ∧ t.voter.sagStarted = true ∧ heatingVote t.voter = 7 ∧
          t.map.standing.getLsbD (flagBit .sag) = true ∧
          budgetNow t.power = s.power.entry.nominal * s.power.entry.sagPercent / 100)) ∧
    (s.power.sag = .recovering → s.power.recover.isSome = true →
      Completes .recoverTimerExpires (.sag :: allocParts) s
        (fun t => t.power.sag = .normal ∧ t.power.recover = none)
        (fun t => isActive t .supplySag = false ∧ t.voter.sagStarted = false ∧
          t.map.standing.getLsbD (flagBit .sag) = false ∧
          budgetNow t.power = s.power.entry.nominal))

/-- A report to the Voter recomputes the resolved level, the largest counting vote or the floor; in RUN the
requested level rises with it at once, submitted to ENGINE with the timer stopped, an equal level stops the timer,
and below it the timer runs on or starts; outside RUN only the report is kept (R94 to R97).  The down-delay timer's
expiry in RUN gives the requested level the resolved level, submits it and stops the timer (R95 to R97). -/
def Obligations.DownDelayExpires : Prop :=
  (∀ (f : Voter → Voter) (s : State), VotesApplied (f s.voter) s (reportVoter f s)) ∧
  (∀ v : Voter,
    let counts := fun (n : Nat) (right : Bool) => if right = true then n else 0
    let vote := fun (ts : Vector Nat 7) (x : Nat) => (List.finRange 7).countP fun i : Fin 7 => decide (ts[i] ≤ x)
    let heating := if v.sagStarted = true then 7 else vote v.heating v.heatInput
    resolvedLevel v = max v.floor (max (counts heating v.heatRight)
      (max (counts (vote v.feed v.feedInput) v.feedRight)
        (counts (vote v.travel v.travelInput) v.travelRight)))) ∧
  ∀ s : State, StopSettled s → s.mgmt.mode = .run → s.voter.timer.isSome = true →
    exec .downDelayExpires s = .next (submit 6 (resolvedLevel s.voter)
      { s with voter := { s.voter with requested := resolvedLevel s.voter, timer := none } }) ∧
    ∃ t, exec .downDelayExpires s = .next t ∧ t.voter.timer = none ∧
      s.voter.floor ≤ t.voter.requested ∧
      (s.voter.heatRight = true → heatingVote s.voter ≤ t.voter.requested) ∧
      (s.voter.feedRight = true → feedVote s.voter ≤ t.voter.requested) ∧
      (s.voter.travelRight = true → travelVote s.voter ≤ t.voter.requested) ∧
      t.voter.requested = resolvedLevel s.voter ∧ Only [.requested, .targetStates, .ports] s t

/-! ### Levelling, feed and commands -/

/-- The valve law: no command in the deadband, else the minimum and the gain's share of the error beyond the
deadband, in tenths rounded down, up to the maximum, with the error's sign; so it is odd and rises with the error
(R115).  A side takes the readings of its slot in RUN as valid or not, and its
confidence carries it to ACTIVE, where the law gives its command, and back to HOLD; a STALE slot takes it to
HOLD; a stop freezes it and forward travel returns it (R106 to R109, R111 to R113). -/
def Obligations.ValveLaw : Prop :=
  (∀ e : LevelEntry, e.minimum ≤ e.maximum →
    (∀ x : Int, x.natAbs ≤ e.deadband → valveCommand e x = 0) ∧
    (∀ x : Int, e.deadband < x →
      valveCommand e x = min (e.maximum : Int) (e.minimum + (x - e.deadband) * e.gain / 10)) ∧
    (∀ x : Int, x < -e.deadband →
      valveCommand e x = -min (e.maximum : Int) (e.minimum + (-x - e.deadband) * e.gain / 10)) ∧
    (∀ x : Int, e.deadband < x.natAbs → e.minimum ≤ (valveCommand e x).natAbs ∧
      (valveCommand e x).natAbs ≤ e.maximum) ∧
    (∀ x : Int, valveCommand e (-x) = -valveCommand e x) ∧
    (∀ x y : Int, x ≤ y → valveCommand e x ≤ valveCommand e y)) ∧
  (∀ (d : Side) (slot : Nat) (s : State),
    let v := sideVars s d
    let e := (getLevel s.level d).entry
    let follows := (v.mode = .grade ∧ slot = (match d with
        | .left => 2
        | .right => 3)) ∨ (v.mode = .slope ∧ slot = 4)
    let counts := v.state = .acquire ∨ v.state = .active ∨ v.state = .hold
    let neutral := some (neutralOf s (valveOf d))
    (∀ r q, s.mgmt.mode ≠ .run ∨ ¬follows ∨ ¬counts → levelUpdate slot r q s d = s) ∧
    (∀ r q, s.mgmt.mode = .run → follows → counts →
      let t := levelUpdate slot r q s d
      let w := sideVars t d
      let valid := q = .good ∧ ∀ l, v.lastValid = some l → (r - l).natAbs ≤ e.jump
      let up := min (v.counter + 1) e.limit
      Only levelParts s t ∧ sideVars t (otherSide d) = sideVars s (otherSide d) ∧ w.mode = v.mode ∧
      (valid → w.lastValid = some r ∧ w.counter = up ∧
        (v.state = .active → w.state = .active ∧ w.base = v.base) ∧
        (v.state ≠ .active → up < e.engage → w.state = v.state ∧ w.base = v.base ∧
          w.lastSubmitted = v.lastSubmitted) ∧
        (v.state ≠ .active → e.engage ≤ up → w.state = .active ∧
          (v.mode = .grade → v.base = none → w.base = some (r - profileAt s.level.profile (match d with
            | .left => .left
            | .right => .right) s.travel.station)) ∧
          (v.mode = .slope ∨ v.base ≠ none → w.base = v.base)) ∧
        (v.state = .active ∨ e.engage ≤ up → ∀ target, w.target = some target →
          w.lastSubmitted = some (valveCommand e (target - r)))) ∧
      (¬valid → w.lastValid = v.lastValid ∧ w.base = v.base ∧ w.counter = v.counter - 1 ∧
        (v.state = .active → v.counter - 1 ≤ e.release → w.state = .hold ∧ w.lastSubmitted = neutral) ∧
        (v.state ≠ .active ∨ e.release < v.counter - 1 → w.state = v.state ∧
          w.lastSubmitted = v.lastSubmitted))) ∧
    (s.mgmt.mode ≠ .run ∨ ¬follows → levelStale slot s d = s) ∧
    (s.mgmt.mode = .run → follows →
      let w := sideVars (levelStale slot s d) d
      (v.state ≠ .standby → w.counter = 0 ∧ w.lastValid = none ∧ w.base = v.base) ∧
      (counts → w.state = .hold) ∧
      (v.state = .acquire ∨ v.state = .active → w.lastSubmitted = neutral) ∧
      (v.state = .frozen → w.state = .frozen ∧ w.remembered = some .hold) ∧
      (v.state = .standby → w.state = .standby)) ∧
    (∀ m, m ≠ .forward →
      let w := sideVars (sideMotion m s d) d
      (counts → w.state = .frozen ∧ w.counter = v.counter ∧ w.base = v.base ∧ w.lastValid = v.lastValid ∧
        w.lastSubmitted = neutral) ∧
      (v.state = .acquire → w.remembered = some .acquire) ∧ (v.state = .active → w.remembered = some .active) ∧
      (v.state = .hold → w.remembered = some .hold) ∧ (¬counts → sideMotion m s d = s)) ∧
    (v.state ≠ .frozen → sideMotion .forward s d = s) ∧
    (v.state = .frozen →
      let w := sideVars (sideMotion .forward s d) d
      w.lastValid = none ∧ w.counter = v.counter ∧ w.base = v.base ∧ w.remembered = none ∧
      (v.remembered = some .active → e.release < v.counter → w.state = .active ∧
        w.lastSubmitted = v.lastSubmitted) ∧
      (v.remembered = some .active → v.counter ≤ e.release → w.state = .hold ∧ w.lastSubmitted = neutral) ∧
      (v.remembered = some .hold → w.state = .hold ∧ w.lastSubmitted = neutral) ∧
      (v.remembered = some .acquire → w.state = .acquire ∧ w.lastSubmitted = neutral)))

/-- The profile at a station: an entry's own value at its station, the first entry's before it, the last
entry's beyond it, and between two neighbours the straight line between them, rounded to the nearest whole number,
a half away from zero, which lies between their values (R117). -/
def Obligations.ProfileFollowsItsEntries : Prop :=
  ∀ (p : Vector ProfileEntry 64) (f : ProfileField), (profileStations p).Pairwise (· < ·) →
    (validEntries p = [] → ∀ s, profileAt p f s = 0) ∧
    (∀ e ∈ validEntries p, profileAt p f e.station = fieldOf f e) ∧
    (∀ e l s, validEntries p = e :: l → s ≤ e.station → profileAt p f s = fieldOf f e) ∧
    (∀ e l s, validEntries p = l ++ [e] → e.station ≤ s → profileAt p f s = fieldOf f e) ∧
    (∀ a b l m s, validEntries p = l ++ a :: b :: m → a.station ≤ s → s ≤ b.station →
      let d := b.station - a.station
      let n := (fieldOf f b - fieldOf f a) * (s - a.station)
      profileAt p f s = fieldOf f a + (if 0 ≤ n then (2 * n + d) / (2 * d) else -((2 * -n + d) / (2 * d))) ∧
        min (fieldOf f a) (fieldOf f b) ≤ profileAt p f s ∧
        profileAt p f s ≤ max (fieldOf f a) (fieldOf f b))

/-- The feed curve at a level: a breakpoint's own speed at its level, the first speed below it, the last speed
above it, and between two neighbours the straight line between them, rounded down, which lies between their speeds
(R124). -/
def Obligations.CurveFollowsItsPoints : Prop :=
  ∀ e : FeedEntry, curveOrdered e →
    (∀ i : Fin 8, curveAt e e.points[i].1 = e.points[i].2) ∧
    (∀ l, l ≤ e.points[0].1 → curveAt e l = e.points[0].2) ∧
    (∀ l, e.points[7].1 ≤ l → curveAt e l = e.points[7].2) ∧
    (∀ i : Fin 7, ∀ l, e.points[i.val].1 ≤ l → l ≤ e.points[i.val + 1].1 →
      let a := e.points[i.val]
      let b := e.points[i.val + 1]
      (curveAt e l : Int) = a.2 + Int.fdiv (((b.2 : Int) - a.2) * ((l : Int) - a.1)) ((b.1 : Int) - a.1) ∧
      min e.points[i.val].2 e.points[i.val + 1].2 ≤ curveAt e l ∧
        curveAt e l ≤ max e.points[i.val].2 e.points[i.val + 1].2)

/-- The starve timer's expiry in RUNNING makes the side STARVED: the timer stops, the commands stand, and
FEED_STARVED is active (R131).  A level update is held, and a running side takes its speeds from it; a STALE
level makes a running side SENSORLESS; PARKED pauses a side, and travel starts it again by the AUTO entry test
(R124, R125, R127, R129, R130).  That an update which ends SENSORLESS also tests for starving is the model's reading
(log entry 25). -/
def Obligations.StarveTimerExpires : Prop :=
  (∀ (d : Side) (s : State), (feedVars s d).state = .running → (feedVars s d).starve.isSome = true →
    Completes (.starveTimerExpires d) feedParts s (fun t => t.mgmt.mode = s.mgmt.mode ∨ t.mgmt.mode = .faultstop)
      (fun t => feedVars t d = { feedVars s d with state := .starved, starve := none } ∧
        feedVars t (otherSide d) = feedVars s (otherSide d) ∧ isActive t .feedStarved = true ∧
        t.map.standing.getLsbD (flagBit (starveFlag d)) = true)) ∧
  (∀ (d : Side) (s : State),
    let v := feedVars s d
    let e := (getFeed s.feed d).entry
    let half := match d with
      | .left => s.feed.leftHalf
      | .right => s.feed.rightHalf
    let runs := fun (l : Nat) (w : FeedVars) =>
      let c := curveAt e l
      let a := min (c * half / s.feed.baseHalf) 1000
      w.conveyor = c ∧ w.auger = a ∧ w.lastConveyor = some (c : Int) ∧ w.lastAuger = some (a : Int)
    let stops := fun w : FeedVars => w.conveyor = 0 ∧ w.auger = 0 ∧
      w.lastConveyor = some (neutralOf s (conveyorOf d)) ∧ w.lastAuger = some (neutralOf s (augerOf d))
    (∀ l,
      let t := feedUpdate d l s
      let w := feedVars t d
      w.held = some l ∧ w.fresh = true ∧ Only feedParts s t ∧
      feedVars t (otherSide d) = feedVars s (otherSide d) ∧
      (v.state = .standby ∨ v.state = .paused → w = { v with held := some l, fresh := true }) ∧
      (v.state = .running ∨ v.state = .starved ∨ v.state = .sensorless → runs l w) ∧
      (v.state = .running ∨ v.state = .sensorless → w.state = .running) ∧
      (v.state = .starved → w.state = if e.lowMark ≤ l then .running else .starved) ∧
      (w.state = .running → (w.starve.isSome = true ↔ 950 ≤ w.conveyor ∧ l < e.lowMark))) ∧
    (let w := feedVars (feedStale d s) d
     w.fresh = false ∧ w.held = v.held ∧
     (v.state = .running ∨ v.state = .starved → w.state = .sensorless ∧ stops w) ∧
     (v.state ≠ .running → v.state ≠ .starved → w = { v with fresh := false })) ∧
    (let w := feedVars (sideFeedMotion .parked s d) d
     (v.state = .running ∨ v.state = .starved ∨ v.state = .sensorless → w.state = .paused ∧ stops w) ∧
     (v.state = .standby ∨ v.state = .paused → sideFeedMotion .parked s d = s)) ∧
    (∀ m, m = .forward ∨ m = .reverse → s.feed.motion = m →
      let w := feedVars (sideFeedMotion m s d) d
      (v.state ≠ .paused → sideFeedMotion m s d = s) ∧
      (v.state = .paused → v.fresh = true → w.state = .running ∧ ∀ l, v.held = some l → runs l w) ∧
      (v.state = .paused → v.fresh = false → w.state = .sensorless ∧ stops w)) ∧
    sideFeedMotion .stopped s d = s)

/-- A submission to an enabled target: refused in FAULTSTOP unless neutral; sent at once as a fresh command
where none is outstanding, its COMMAND frame carrying the value and the row's node and channel, urgent for a valve
and in FAULTSTOP, and its ACK timer running unless the frame waits; else pending, or nothing pending where it equals
the outstanding value (R135, R136). -/
def Obligations.SubmissionsAreTaken : Prop :=
  ∀ (i : Fin 7) (v : Int) (s : State),
    let x := s.disp.targets[i]
    let t := submit i v s
    let y := t.disp.targets[i]
    (x.row.enabled = false → t = s) ∧
    (s.disp.hubMode = .faultstop → v ≠ neutralOf s i → t = s) ∧
    (x.row.enabled = true → s.disp.hubMode ≠ .faultstop ∨ v = neutralOf s i →
      (x.vars.outstanding = none →
        y.vars.outstanding = some ⟨v, x.vars.seqCounter, 1⟩ ∧
          y.vars.seqCounter = (x.vars.seqCounter + 1) % 16 ∧
          y.vars.sent = min (x.vars.sent + 1) 65535 ∧ y.vars.pending = x.vars.pending ∧
          CommandOffered s.bridge i v x.vars.seqCounter s t ∧
          ((y.waiting = none ∧ y.vars.ackTimer = some x.row.timeout) ∨
            (y.waiting ≠ none ∧ y.vars.ackTimer = none)) ∧
          (∀ j : Fin 7, j ≠ i → t.disp.targets[j] = s.disp.targets[j]) ∧
          Only [.targetStates, .ports] s t) ∧
      (∀ o, x.vars.outstanding = some o →
        y = { x with vars := { x.vars with pending := if o.value = v then none else some v } } ∧
          (∀ j : Fin 7, j ≠ i → t.disp.targets[j] = s.disp.targets[j]) ∧ Only [.targetStates] s t))

/-- The first try of a command that times out is sent again, its frame with the same value and sequence; the
second is dropped, the target is LOST, TARGET_LOST is active, and a pending value goes out as a fresh command
(R138 to R140). A valve's side is told after that (log entry 26): in RUN its counter becomes 0, a side in ACQUIRE
or ACTIVE enters HOLD and submits neutral, and a FROZEN one will return to HOLD (R103, R110). -/
def Obligations.AckTimerExpires : Prop :=
  ∀ (i : Fin 7) (o : Outstanding) (s : State), StopSettled s →
    s.disp.targets[i].vars.outstanding = some o → s.disp.targets[i].vars.ackTimer.isSome = true →
    let x := s.disp.targets[i]
    let probe := x.vars.pending.map fun v : Int => (⟨v, x.vars.seqCounter, 1⟩ : Outstanding)
    (o.tries = 1 → ∃ t, exec (.ackTimerExpires i) s = .next t ∧
      let y := t.disp.targets[i]
      y.vars.outstanding = some { o with tries := 2 } ∧ y.vars.resends = min (x.vars.resends + 1) 65535 ∧
        y.vars.pending = x.vars.pending ∧ y.vars.lost = x.vars.lost ∧
        y.vars.seqCounter = x.vars.seqCounter ∧ CommandOffered s.bridge i o.value o.seq s t ∧
        (∀ j : Fin 7, j ≠ i → t.disp.targets[j] = s.disp.targets[j]) ∧ Only [.targetStates, .ports] s t) ∧
    (o.tries ≠ 1 → 2 ≤ i.val → Completes (.ackTimerExpires i) commandParts s (fun _ => True)
      (fun t =>
        let y := t.disp.targets[i]
        y.vars.lost = true ∧ y.vars.losses = min (x.vars.losses + 1) 65535 ∧ y.vars.pending = none ∧
          isActive t .targetLost = true ∧ y.vars.outstanding = probe ∧
          (x.vars.pending = none → y.vars.ackTimer = none) ∧
          (∀ v, x.vars.pending = some v →
            ∃ b, OwnOffers s.bridge b ∧ CommandOffered b i v x.vars.seqCounter s t) ∧
          ∀ j : Fin 7, j ≠ i → t.disp.targets[j] = s.disp.targets[j])) ∧
    (o.tries ≠ 1 → ∀ d, i = valveOf d → Completes (.ackTimerExpires i) levelParts s (fun _ => True)
      (fun t =>
        let y := t.disp.targets[i]
        let v := sideVars s d
        let w := sideVars t d
        let n := x.row.neutral
        let enters := s.mgmt.mode = .run ∧ (v.state = .acquire ∨ v.state = .active)
        y.vars.lost = true ∧ y.vars.losses = min (x.vars.losses + 1) 65535 ∧
          isActive t .targetLost = true ∧ sideVars t (otherSide d) = sideVars s (otherSide d) ∧
          (∀ j : Fin 7, j ≠ i → t.disp.targets[j] = s.disp.targets[j]) ∧
          (¬enters → y.vars.outstanding = probe ∧ y.vars.pending = none) ∧
          (enters → w.state = .hold ∧ w.lastSubmitted = some n ∧ isActive t .levelHold = true ∧
            (x.row.enabled = true →
              (x.vars.pending = none → y.vars.outstanding = some ⟨n, x.vars.seqCounter, 1⟩ ∧
                y.vars.pending = none) ∧
              (∀ p, x.vars.pending = some p → y.vars.outstanding = probe ∧
                y.vars.pending = if p = n then none else some n))) ∧
          (s.mgmt.mode ≠ .run → w = v) ∧
          (s.mgmt.mode = .run →
            (v.state ≠ .standby → w.counter = 0 ∧ w.base = v.base ∧ w.lastValid = v.lastValid) ∧
            (v.state = .hold → w.state = .hold) ∧ (v.state = .standby → w.state = .standby) ∧
            (v.state = .frozen → w.state = .frozen ∧ w.remembered = some .hold))))

/-- An answer for the own node goes to the first enabled row with its source and channel. Where it matches the
outstanding command by sequence and says ACCEPTED or REJECTED, it ends it: the target is not LOST, TARGET_LOST
follows the targets that are, a rejection is counted and logged as TARGET_REJECT, and a pending value goes out.
Any answer reaches a LOST target that has none outstanding. Every other answer is counted as received and does no
more (R8, R137, R140). The order of a rejection's effects, and that a first try which still
waits is withdrawn too, are the model's choice (log entries 74 and 81). -/
def Obligations.AnswersEndCommands : Prop :=
  ∀ (p : Port) (clean : Bool) (bytes : List Byte) (f : Frame) (l : List Byte) (s : State),
    checkFrame clean bytes = some f → f.cls = .ack → f.src ≠ 63 → f.dst = s.bridge.ownNode →
    carries (getPort s.bridge p) = true → f.body = .bytes l →
    let c := Instr.frameReceived p clean bytes
    let counted := onPort p (fun r => { r with received := min (r.received + 1) 65535 }) s
    let ignored := StopSettled s → exec c s = .next counted
    let named := fun j : Fin 7 =>
      let row := s.disp.targets[j].row
      row.enabled = true ∧ row.node = f.src ∧ row.chan = f.chan
    let rejects := fun t : State => (condEntry t.log .targetReject).count
    ((∀ j, ¬named j) → ignored) ∧ (l = [] → ignored) ∧
    (∀ (i : Fin 7) (code : Byte) (rest : List Byte), named i → (∀ j, j < i → ¬named j) → l = code :: rest →
      let x := s.disp.targets[i]
      let others := fun t : State => ∀ j : Fin 7, j ≠ i → t.disp.targets[j] = s.disp.targets[j]
      let lostKind := fun t : State => isActive t .targetLost = t.disp.targets.toList.any (·.vars.lost)
      (x.vars.outstanding = none → x.vars.lost = false → ignored) ∧
      (x.vars.outstanding = none → x.vars.lost = true → StopSettled s → Completes c commandParts s
        (fun t => t.disp.targets[i].vars.lost = false)
        (fun t => t.disp.targets[i] = { x with vars := { x.vars with lost := false } } ∧ others t ∧
          lostKind t)) ∧
      (∀ o, x.vars.outstanding = some o →
        (o.seq ≠ f.seq ∨ (code ≠ 0 ∧ code ≠ 1) → ignored) ∧
        (o.seq = f.seq → code = 0 ∨ code = 1 →
          Completes c commandParts s (fun _ => True) (fun t =>
            let y := t.disp.targets[i]
            y.vars.lost = false ∧ y.vars.pending = none ∧
              (code = 0 → y.vars.rejections = x.vars.rejections ∧ rejects t = rejects s) ∧
              (code = 1 → y.vars.rejections = min (x.vars.rejections + 1) 65535 ∧
                rejects t = min (rejects s + 1) 255) ∧
              lostKind t ∧
              (x.vars.pending = none → y.vars.outstanding = none ∧ y.vars.ackTimer = none ∧
                y.waiting = none) ∧
              (∀ v, x.vars.pending = some v → y.vars.outstanding = some ⟨v, x.vars.seqCounter, 1⟩ ∧
                ∃ b, OwnOffers counted.bridge b ∧ CommandOffered b i v x.vars.seqCounter s t) ∧
              others t))))

/-! ### The mat map -/

/-- A ROW record tells its row's cells: the counts of valid and COLD cells, the lowest, highest and mean of their
means, the runs that cover exactly the COLD cells, six of them in the list, the column range, and the flags of the
close with SEGREGATED, NO_SCAN and RUNS_OVERFLOW (R151, R152). A station report that crosses the open row's end
closes it: its record joins the queue, behind the GAP record of an open gap, or is counted into the gap with the
rows skipped, and a new row opens with the flags of the conditions that stand after the row-close report, by which
a zone in REGULATE changes its boost from the closed row's cells in its span (R76, R148, R150, R153 to R155).
Entry into RUN makes a RESTART record alike (R149, R154, R155). The record goes before the report (log entry 36).
-/
def Obligations.RowRecordsTellTheirCells : Prop :=
  (∀ (m : MatMap) (clock : Nat) (row : OpenRow),
    let r := rowRecord m clock row
    let cell := fun i : Fin 64 => row.cells[i]
    let means := (List.finRange 64).filterMap fun i => cellMean (cell i)
    let runs := coldRuns (row.cells.toList.map (isCold m.entry.cold)) 0 none
    (∀ i, (0 < (cell i).count → cellMean (cell i) = some ((cell i).sum / (cell i).count)) ∧
      ((cell i).count = 0 → cellMean (cell i) = none)) ∧
    r.clock = clock ∧ r.station = row.start ∧ r.pitch = row.pitch ∧
    (row.scanned = true → ∀ lo hi, row.span = some (lo, hi) → r.colLo = lo ∧ r.colHi = hi) ∧
    (row.scanned = false → r.colLo = m.cLo ∧ r.colHi = m.cHi) ∧
    r.valid = (List.finRange 64).countP (fun i => decide (0 < (cell i).count)) ∧
    r.cold = (List.finRange 64).countP (fun i => decide (0 < (cell i).count) &&
      decide ((cell i).sum / (cell i).count < m.entry.cold)) ∧
    (∀ i x, cellMean (cell i) = some x → r.min ≤ x ∧ x ≤ r.max) ∧
    (0 < r.valid → (∃ i, cellMean (cell i) = some r.max) ∧ r.mean = means.sum / means.length ∧
      r.min ≤ r.mean ∧ r.mean ≤ r.max ∧
      ((∀ i x, cellMean (cell i) = some x → x ≤ 250) → ∃ i, cellMean (cell i) = some r.min)) ∧
    (r.valid = 0 → r.min = 255 ∧ r.max = 255 ∧ r.mean = 255) ∧
    (∀ i : Fin 64, isCold m.entry.cold (cell i) = true ↔ ∃ x ∈ runs, x.1 ≤ i.val ∧ i.val < x.1 + x.2) ∧
    (∀ x ∈ runs, 0 < x.2 ∧ x.1 + x.2 ≤ 64) ∧ runs.Pairwise (fun x y => x.1 + x.2 < y.1) ∧
    r.runCount = runs.length ∧ r.runCount ≤ 32 ∧ r.runs.length = 6 ∧ r.runs.take runs.length = runs.take 6 ∧
    (∀ x ∈ r.runs.drop runs.length, x = (0, 0)) ∧
    (r.flags.getLsbD 10 =
      (row.flags.getLsbD 10 || decide (0 < r.valid ∧ m.entry.seg < r.max - r.min))) ∧
    (r.flags.getLsbD 11 = (row.flags.getLsbD 11 || !row.scanned)) ∧
    (r.flags.getLsbD 12 = (row.flags.getLsbD 12 || decide (6 < runs.length))) ∧
    (∀ b, b < 10 ∨ 12 < b → r.flags.getLsbD b = row.flags.getLsbD b)) ∧
  (∀ (station high : Int) (s : State),
    let t := mapStation station high s
    let n := s.map.queue.length
    let gaps := fun u : State => (condEntry u.log .recordGap).count
    t.map.station = station ∧ t.map.highWater = high ∧
    (s.map.row = none →
      t = { s with map := { s.map with station := station, highWater := high } }) ∧
    (∀ row, s.map.row = some row → 0 < row.pitch →
      let e := row.start + row.pitch
      let record := Record.row (rowRecord s.map s.mgmt.jobClock row)
      (high < e → t = { s with map := { s.map with station := station, highWater := high } }) ∧
      (∀ k : Nat, 1 ≤ k → k ≤ 4294967295 → row.start + k * row.pitch ≤ high →
        high < row.start + (k + 1) * row.pitch →
        let next := row.start + (k : Int) * row.pitch
        (∃ q, t.map.row = some q ∧ q.start = next ∧ q.pitch = s.map.entry.pitch ∧ q.scanned = false ∧
          q.span = none ∧ q.cells = .replicate 64 ⟨0, 0⟩ ∧
          ∀ b, q.flags.getLsbD b = (t.map.standing.getLsbD b || (b == 0 && t.map.motion == .stopped) ||
            (b == 1 && t.map.motion == .parked) || (b == 2 && t.map.motion == .reverse) ||
            (b == 9 && t.map.hubMode == .faultstop))) ∧
        (∀ z : Fin 16,
          let e := s.heat.zones[z].entry
          let old := s.heat.zones[z].vars
          let new := t.heat.zones[z].vars
          let cell := fun i : Fin 64 => row.cells[i]
          let valid := fun i : Fin 64 => decide (e.first ≤ i.val ∧ i.val ≤ e.last ∧ 0 < (cell i).count)
          let cold := fun i : Fin 64 => valid i && decide ((cell i).sum / (cell i).count < s.map.entry.cold)
          (old.state ≠ .regulate → new.boost = old.boost) ∧
          (old.state = .regulate → offState new.state = false → new.boost =
            boostAfter e old.boost ((List.finRange 64).countP valid) ((List.finRange 64).countP cold))) ∧
        (s.map.gap = none → n < 32 → t.map.queue = s.map.queue ++ [record] ∧
          t.map.gap = (if k = 1 then none else some ⟨e, next, k - 1, .skipped, false, s.mgmt.jobClock⟩)) ∧
        (s.map.gap = none → 32 ≤ n → t.map.queue = s.map.queue ∧
          t.map.gap = some ⟨row.start, next, k, .queueFull, false, s.mgmt.jobClock⟩) ∧
        (∀ g, s.map.gap = some g → n < 31 → t.map.queue = s.map.queue ++ [.gap g, record] ∧
          gaps t = min (gaps s + 1) 255 ∧
          t.map.gap = (if k = 1 then none else some ⟨e, next, k - 1, .skipped, false, s.mgmt.jobClock⟩)) ∧
        (∀ g, s.map.gap = some g → 31 ≤ n → g.rows + k ≤ 4294967295 → t.map.queue = s.map.queue ∧
          t.map.gap = some { g with rows := g.rows + k, last := next })))) ∧
  (∀ s : State,
    let t := startRun s
    let n := s.map.queue.length
    let record := Record.restart s.mgmt.jobClock s.map.station s.map.cause
    t.map.cause = .restarted ∧
    (∃ q, t.map.row = some q ∧ q.start = s.map.highWater ∧ q.pitch = s.map.entry.pitch ∧
      q.scanned = false ∧ q.span = none ∧ q.cells = .replicate 64 ⟨0, 0⟩) ∧
    (s.map.gap = none → n < 32 → t.map.queue = s.map.queue ++ [record] ∧ t.map.gap = none) ∧
    (s.map.gap = none → 32 ≤ n → t.map.queue = s.map.queue ∧
      t.map.gap = some ⟨s.map.station, s.map.station, 0, .queueFull, true, s.mgmt.jobClock⟩) ∧
    (∀ g, s.map.gap = some g →
      (n < 31 → t.map.queue = s.map.queue ++ [.gap g, record] ∧ t.map.gap = none) ∧
      (31 ≤ n → t.map.queue = s.map.queue ∧ t.map.gap = some { g with restart := true })))

/-- The assembly window's expiry applies the scan held partially and empties the buffer, and SCAN_INCOMPLETE is
logged (R146, R147).  A SCAN frame that is no segment, or of the scan applied last, is ignored and counted; a segment
begins a scan, joins the one held, which is applied whole with its fourth, or displaces it, which is then applied
partially (R145).  Each scan taken adds the readings it holds in the active range, bytes of 0 to 250, to the open
row's cells, marks the row scanned and widens its range union (R147). -/
def Obligations.AssemblyWindowExpires : Prop :=
  (∀ s : State, s.map.window.isSome = true → s.map.scan.isSome = true →
    let m := s.map
    let takes := m.row.isSome = true ∧ m.motion = .forward ∧ m.highWater ≤ m.station
    Completes .assemblyWindowExpires scanParts s
      (fun t => t.map.scan = none ∧ t.map.window = none ∧ (∀ i : Fin 4, t.map.segs[i] = none) ∧
        t.map.lastApplied = m.scan ∧
        (takes → t.map.taken = min (m.taken + 1) 65535 ∧ t.map.notTaken = m.notTaken) ∧
        (¬takes → t.map.notTaken = min (m.notTaken + 1) 65535 ∧ t.map.taken = m.taken))
      (fun t => (condEntry t.log .scanIncomplete).count =
          min ((condEntry s.log .scanIncomplete).count + 1) 255 ∧
        (¬takes → t.map.row = m.row) ∧
        (∀ r, m.row = some r → takes → ∃ q, t.map.row = some q ∧ ScanTaken m m.segs r q))) ∧
  (∀ (p : Port) (clean : Bool) (bytes : List Byte) (f : Frame) (s : State), StopSettled s →
    checkFrame clean bytes = some f → f.cls = .scan → f.src ≠ 63 →
    carries (getPort s.bridge p) = true → f.dst ≠ s.bridge.ownNode → f.dst ≠ 63 →
    s.bridge.nodes[ix 63 f.dst].side = portSide p →
    let c := Instr.frameReceived p clean bytes
    let m := s.map
    let l := payloadOf f
    let foreign := m.entry.scanner ≠ some f.src ∨ 3 < f.chan ∨ l.length ≠ 16
    let gives := fun x : MatMap => exec c s = .next
      (onPort p (fun r => { r with received := min (r.received + 1) 65535 }) { s with map := x })
    let first : Vector (Option (List Byte)) 4 := (Vector.replicate 4 none).set (ix 3 f.chan) (some l)
    let joined := m.segs.set (ix 3 f.chan) (some l)
    let whole := ∀ i : Fin 4, joined[i].isSome = true
    let takes := m.row.isSome = true ∧ m.motion = .forward ∧ m.highWater ≤ m.station
    let counts := fun (segs : Vector (Option (List Byte)) 4) (t : State) =>
      (takes → t.map.taken = min (m.taken + 1) 65535 ∧ t.map.notTaken = m.notTaken ∧
        ∀ r, m.row = some r → ∃ q, t.map.row = some q ∧ ScanTaken m segs r q) ∧
      (¬takes → t.map.notTaken = min (m.notTaken + 1) 65535 ∧ t.map.taken = m.taken ∧ t.map.row = m.row)
    (foreign ∨ (m.scan = none ∧ m.lastApplied = some f.seq) →
      gives { m with ignored := min (m.ignored + 1) 65535 }) ∧
    (¬foreign → m.scan = none → m.lastApplied ≠ some f.seq →
      gives { m with scan := some f.seq, segs := first, window := some 100 }) ∧
    (¬foreign → m.scan = some f.seq →
      (¬whole → gives { m with segs := joined }) ∧
      (whole → ∃ t, exec c s = .next t ∧ Only [.ports, .scan, .row] s t ∧ t.map.scan = none ∧
        t.map.window = none ∧ (∀ i : Fin 4, t.map.segs[i] = none) ∧ t.map.lastApplied = some f.seq ∧
        counts joined t)) ∧
    (∀ n, ¬foreign → m.scan = some n → n ≠ f.seq → Completes c scanParts s
      (fun t => t.map.scan = some f.seq ∧ t.map.segs = first ∧ t.map.window = some 100 ∧
        t.map.lastApplied = some n)
      (fun t => counts m.segs t ∧ (condEntry t.log .scanIncomplete).count =
        min ((condEntry s.log .scanIncomplete).count + 1) 255)))

/-! ### The archive -/

/-- A record taken leaves the queue, takes the next number and joins the page buffer, whose first record
starts the flush timer; the page's last slot, or the flush timer's expiry, makes its program due; a due program
is issued with its timer, suspending an erase (R161, R162, R165). -/
def Obligations.PageBufferFillsAndIssues : Prop :=
  ∀ s : State, StopSettled s →
    let a := s.archive
    (∀ (r : Record) (rest : List Record) (k w : Nat), s.map.queue = r :: rest → a.write = .at k w →
      a.state = .normal → a.program = none → w % 4 + a.buffer.length < 4 → a.nextNumber < 4294967295 →
      exec .recordTaken s = .next { s with
        map := { s.map with queue := rest }
        archive := { a with
          buffer := a.buffer ++ [(a.nextNumber, r)]
          nextNumber := a.nextNumber + 1
          flush := if a.buffer = [] then some 2000 else a.flush
          programDue := a.programDue || w % 4 + a.buffer.length = 3 } }) ∧
    (a.flush.isSome = true →
      exec .flushTimerExpires s = .next { s with archive := { a with flush := none, programDue := true } }) ∧
    (a.state = .normal → a.programDue = true → a.program = none → fetchHolds s.mgmt = false →
      (∀ k n, a.erase = .erasing k n → n < 4) →
      exec .programIssued s = .next { s with archive := { a with
        programDue := false
        flush := none
        program := some 10
        erase := match a.erase with
          | .erasing k n => .suspended k (n + 1)
          | x => x } })

/-- A page program that completes leaves its records in their slots, every other byte as it was, gives its sector's
empty directory entry their lowest number, sends their notices on channel 200 where streaming is on, and moves the
write position on; one that fails leaves its slots open and moves the records to the next page, where their program
falls due at once; each resumes a suspended erase unless a fetch still holds it; the third failure in a row moves
the position too and leaves the archive FAILED (R162 to R165, R169, R171). A sector is entered when it is ready and
its erase is not still to begin, and the sector after it is then decided. Open bytes are free values, the flash
changes at the program's end, a skipped notice uses up its count, the effects come in the list's order, the third
failure enters no FULL, a fetch that has not begun to read holds nothing, and where the position waits for the next
sector the records' program is not due before it is entered (log entries 9, 35, 41, 76, 77, 78, 79 and 89). -/
def Obligations.ProgramsEnd : Prop :=
  ∀ (k w : Nat) (s : State), s.archive.program.isSome = true → s.archive.write = .at k w →
    let a := s.archive
    let place := fun i => 64 * (a.first + k) + (w + i)
    let inPlaces := fun x : Nat => ∃ i, i < a.buffer.length ∧ x / 64 = place i
    let after := fun j => if j + 1 < a.count then j + 1 else 0
    let next := after k
    let enters := (∃ x, a.sectors[next]? = some x ∧ x.ready = true) ∧ a.eraseDue ≠ some next
    let moved := fun (slot : Nat) (t : State) =>
      (slot < 64 → t.archive.write = .at k slot) ∧
      (64 ≤ slot → (a.held ≠ some next → enters → t.archive.write = .at next 0) ∧
        (a.held = some next ∨ ¬enters → t.archive.write = .waiting next))
    let decided := fun (slot : Nat) (t : State) =>
      let low := (t.archive.sectors[after next]?).bind (·.low)
      (slot < 64 ∨ a.held ≠ some next ∨ a.stored.policy = .wrap → t.archive.state = a.state) ∧
      (64 ≤ slot → a.held ≠ some next → enters →
        (low = none ∨ a.stored.policy = .wrap → t.archive.eraseDue = some (after next)) ∧
        (low ≠ none → a.stored.policy = .halt → t.archive.held = some (after next))) ∧
      (64 ≤ slot → a.held ≠ some next → ¬enters →
        t.archive.eraseDue = a.eraseDue ∧ t.archive.held = a.held) ∧
      (64 ≤ slot → a.held = some next → a.stored.policy = .wrap →
        t.archive.eraseDue = some next ∧ t.archive.held = none) ∧
      (64 ≤ slot → a.held = some next → a.stored.policy = .halt →
        t.archive.state = .full ∧ t.archive.buffer = [])
    let due := fun (slot : Nat) (t : State) =>
      (slot < 64 ∨ (a.held ≠ some next ∧ enters) → (t.archive.programDue = true ↔ t.archive.buffer ≠ [])) ∧
      (64 ≤ slot → (a.held = some next ∧ a.stored.policy = .wrap) ∨ (a.held ≠ some next ∧ ¬enters) →
        t.archive.programDue = a.programDue)
    let fetches := ∃ r f, s.mgmt.request = some r ∧ r.kind = .fetch f ∧ f.begun = true ∧ f.final = false
    let resumed := fun t : State => t.archive.eraseTimer = a.eraseTimer ∧
      (fetches → t.archive.erase = a.erase) ∧
      (¬fetches → t.archive.erase = match a.erase with
        | .suspended j n => .erasing j n
        | x => x)
    let numbers := a.buffer.map (·.1)
    let notify := fun (x : Bridge × Nat × Nat) (y : Nat × Record) =>
      let o := offerOwn x.1 ⟨.notice, false, x.2.1, 0, s.bridge.consoleNode, s.bridge.ownNode, 200,
        .bytes (wireForm y.1 y.2)⟩
      (o.1, (x.2.1 + 1) % 16, if o.2 = .refused then min (x.2.2 + 1) 65535 else x.2.2)
    let start := (s.bridge, s.log.noticeCount, a.skipped)
    let sent := if a.stored.streaming = true then a.buffer.foldl notify start else start
    (Memory.wf s.flash = true → a.buffer ≠ [] → Completes .programComplete programParts s
      (fun t =>
        (∀ i x, a.buffer[i]? = some x → readPlace t.flash (place i) = slotImage x.1 x.2) ∧
        (∀ x, ¬inPlaces x → readByte t.flash x = readByte s.flash x) ∧
        t.archive.program = none ∧ t.archive.failures = 0 ∧ t.archive.buffer = [] ∧
        t.archive.newest = numbers.max? ∧
        (a.oldest = none → t.archive.oldest = numbers.min?) ∧
        (a.oldest ≠ none → t.archive.oldest = a.oldest) ∧
        (∀ x, a.sectors[k]? = some x → t.archive.sectors[k]? = some
          { x with low := if x.low = none then numbers.min? else x.low }) ∧
        (∀ j, j ≠ k → t.archive.sectors[j]? = a.sectors[j]?) ∧
        t.archive.skipped = sent.2.2 ∧ (a.lost ≤ 65535 → t.archive.lost = a.lost) ∧
        moved (w + a.buffer.length) t ∧ decided (w + a.buffer.length) t ∧ due (w + a.buffer.length) t ∧
        resumed t)
      (fun t =>
        let full := 64 ≤ w + a.buffer.length ∧ a.held = some next ∧ a.stored.policy = .halt
        (full → isActive t .archiveFull = true ∧ OwnOffers sent.1 t.bridge) ∧
        (¬full → t.bridge = sent.1 ∧ t.log.noticeCount = sent.2.1))) ∧
    (a.failures < 2 → Completes .programTimerExpires programParts s
      (fun t =>
        (∀ x, inPlaces x → readByte t.flash x = Config.unsettledByte s.marks x) ∧
        (∀ x, ¬inPlaces x → readByte t.flash x = readByte s.flash x) ∧
        t.archive.program = none ∧ t.archive.failures = a.failures + 1 ∧
        (4 * (w / 4 + 1) < 64 ∨ a.held ≠ some next ∨ a.stored.policy = .wrap →
          t.archive.buffer = a.buffer) ∧
        moved (4 * (w / 4 + 1)) t ∧ decided (4 * (w / 4 + 1)) t ∧ due (4 * (w / 4 + 1)) t ∧ resumed t)
      (fun _ => True)) ∧
    (2 ≤ a.failures → Completes .programTimerExpires programParts s
      (fun t => t.archive.state = .failed ∧ t.archive.buffer = [] ∧ t.archive.flush = none ∧
        t.archive.erase = .idle ∧ t.archive.program = none ∧
        t.archive.lost = min (a.lost + a.buffer.length) 65535 ∧ moved (4 * (w / 4 + 1)) t)
      (fun t => isActive t .archiveFail = true ∧ isActive t .archiveFull = false))

/-- An erase that is issued empties its sector's entry and leaves its bytes open; completed, it leaves them 255, its
sector ready and a waiting write position entered, where records that wait in the page buffer fall due; run out, it
begins again, and the third failure in a row leaves the archive FAILED.  No other byte changes (R164, R165).  A
format goes from an erase left in the flash to range sector 0 and on, sector by sector, and its last leaves the
archive NORMAL and empty with the write position at range sector 0 (R170).  Open bytes are free values from the
issue on (log entries 9 and 42), the erase-ahead state reads NONE until the new issue (log entry 82), and the wait's
end completes the erase left in the flash, while its timer's end leaves that erase open and the format goes on (log
entry 45).  A failed program's records that waited for the sector fall due with its entry, not before (log entry
89). -/
def Obligations.ErasesEnd : Prop :=
  ∀ (j : Nat) (s : State), StopSettled s →
    let a := s.archive
    let inside := fun x : Nat => x / 4096 = a.first + j
    let erased := fun t : State => (∀ x, inside x → readByte t.flash x = 255) ∧
      (∀ x, ¬inside x → readByte t.flash x = readByte s.flash x)
    (a.eraseDue = some j → a.program = none → a.programDue = false → fetchHolds s.mgmt = false →
      ∃ t, exec .eraseIssued s = .next t ∧ t.archive.erase = .erasing j 0 ∧
        t.archive.eraseTimer = some 2000 ∧ t.archive.eraseDue = none ∧
        (j < a.sectors.length → t.archive.sectors[j]? = some ⟨none, false⟩) ∧
        (∀ i, i ≠ j → t.archive.sectors[i]? = a.sectors[i]?) ∧
        t.archive.oldest = (t.archive.sectors.filterMap (·.low)).min? ∧
        (∀ x, inside x → readByte t.flash x = Config.unsettledByte s.marks x) ∧
        (∀ x, ¬inside x → readByte t.flash x = readByte s.flash x) ∧
        Only [.archive, .flash, .marks] s t) ∧
    (∀ n, a.erase = .erasing j n → a.format = .none →
      ∃ t, exec .eraseComplete s = .next t ∧ t.archive.erase = .idle ∧ t.archive.eraseTimer = none ∧
        t.archive.failures = 0 ∧
        (∀ x, a.sectors[j]? = some x → t.archive.sectors[j]? = some { x with ready := true }) ∧
        (a.write = .waiting j → t.archive.write = .at j 0 ∧ t.archive.buffer = a.buffer ∧
          (t.archive.programDue = true ↔ a.buffer ≠ []) ∧
          (let ahead := if j + 1 < a.count then j + 1 else 0
           let low := (t.archive.sectors[ahead]?).bind (·.low)
           (low = none ∨ a.stored.policy = .wrap → t.archive.eraseDue = some ahead) ∧
           (low ≠ none → a.stored.policy = .halt → t.archive.held = some ahead))) ∧
        (a.write ≠ .waiting j → t.archive.write = a.write ∧ t.archive.programDue = a.programDue) ∧
        (∀ x, inside x → readByte t.flash x = 255) ∧
        (∀ x, ¬inside x → readByte t.flash x = readByte s.flash x) ∧ Only [.archive, .flash] s t) ∧
    (a.format = .waiting → ∀ sector, a.left = some sector →
      ∃ t, exec .eraseComplete s = .next t ∧ Only [.archive, .flash] s t ∧
        t.archive = { a with format := .erasing, eraseDue := some 0, eraseTimer := none, left := none } ∧
        (∀ x, x / 4096 = sector → readByte t.flash x = 255) ∧
        (∀ x, x / 4096 ≠ sector → readByte t.flash x = readByte s.flash x)) ∧
    (a.format = .waiting → a.erase = .idle → a.eraseTimer.isSome = true →
      exec .eraseTimerExpires s = .next { s with archive := { a with
        failures := a.failures + 1
        format := .erasing
        eraseDue := some 0
        eraseTimer := none
        left := none } }) ∧
    (∀ n, a.erase = .erasing j n → a.format = .erasing → j + 1 < a.count →
      ∃ t, exec .eraseComplete s = .next t ∧ Only [.archive, .flash] s t ∧ erased t ∧
        t.archive = { a with
          sectors := t.archive.sectors
          erase := .idle
          eraseTimer := none
          failures := 0
          eraseDue := some (j + 1) } ∧
        (∀ x, a.sectors[j]? = some x → t.archive.sectors[j]? = some { x with ready := true }) ∧
        (∀ i, i ≠ j → t.archive.sectors[i]? = a.sectors[i]?)) ∧
    (∀ n, a.erase = .erasing j n → a.format = .erasing → a.count ≤ j + 1 →
      Completes .eraseComplete (.flash :: archiveParts) s
        (fun t => erased t ∧ t.archive.state = .normal ∧ t.archive.format = .none ∧
          t.archive.nextNumber = 1 ∧ t.archive.oldest = none ∧ t.archive.newest = none ∧
          t.archive.failures = 0 ∧ t.archive.erase = .idle ∧ t.archive.eraseTimer = none ∧
          t.archive.write = .at 0 0 ∧
          (∀ x, a.sectors[j]? = some x → t.archive.sectors[j]? = some { x with ready := true }) ∧
          (∀ i, i ≠ j → t.archive.sectors[i]? = a.sectors[i]?) ∧
          (1 < a.count → (a.sectors[1]?).bind (·.low) = none → t.archive.eraseDue = some 1))
        (fun t => isActive t .archiveFail = false ∧ isActive t .archiveFull = false)) ∧
    (∀ n, a.erase = .erasing j n → a.format ≠ .waiting → a.eraseTimer.isSome = true →
      (a.failures < 2 → exec .eraseTimerExpires s = .next { s with archive := { a with
        failures := a.failures + 1
        erase := .idle
        eraseTimer := none
        eraseDue := some j } }) ∧
      (2 ≤ a.failures → Completes .eraseTimerExpires archiveParts s
        (fun t => t.archive.state = .failed ∧ t.archive.erase = .idle ∧ t.archive.eraseTimer = none ∧
          t.archive.buffer = [])
        (fun t => isActive t .archiveFail = true)))

/-- The power-on scan's end: the directory, the oldest and newest numbers and the next number follow the valid
slots of the range, and the count of dirty sectors the dirty ones. The write position is the slot after the newest
record, where the slots after it are erased, else it waits for the next sector; without records it is slot 0 of
range sector 0, or waits for it. The archive is NORMAL, or FULL under HALT where it waits for a sector that holds
records (R164, R167, R168). What follows 4294967295 is a free value (log entry 10), and where the newest number
stands in several slots, the last of them counts (log entry 43). -/
def Obligations.ArchiveScanEnds : Prop :=
  ∀ s : State, s.archive.state = .scanning →
    let a := s.archive
    let slot := fun j i => readPlace s.flash (64 * (a.first + j) + i)
    let erased := fun j i => slotErased (slot j i) = true
    let holds := fun j i n => slotErased (slot j i) = false ∧ slotValid (slot j i) = true ∧
      slotNumber (slot j i) = n
    let numbers := fun j => (List.range 64).filterMap fun i =>
      if slotErased (slot j i) || !slotValid (slot j i) then none else some (slotNumber (slot j i))
    let dirty := fun j => (List.range 64).any fun i => !slotErased (slot j i) && !slotValid (slot j i)
    let all := (List.range a.count).flatMap numbers
    let next := fun k => if k + 1 < a.count then k + 1 else 0
    let free := fun j => numbers j = [] ∨ a.stored.policy = .wrap
    let placed := fun (k w : Nat) (t : State) => t.archive.write = .at k w ∧ t.archive.state = .normal ∧
      (free (next k) → t.archive.eraseDue = some (next k)) ∧
      (¬free (next k) → t.archive.held = some (next k))
    let waits := fun (j : Nat) (t : State) => t.archive.write = .waiting j ∧
      (free j → t.archive.state = .normal ∧ t.archive.eraseDue = some j) ∧
      (¬free j → t.archive.state = .full ∧ t.archive.held = some j)
    Completes .archiveScanEnds archiveParts s
      (fun t =>
        (∀ j, j < a.count → (t.archive.sectors[j]?).map (·.low) = some ((numbers j).min?)) ∧
        t.archive.oldest = all.min? ∧ t.archive.newest = all.max? ∧
        (all = [] → t.archive.nextNumber = 1) ∧
        (∀ n, all.max? = some n → n < 4294967295 → t.archive.nextNumber = n + 1) ∧
        t.archive.dirty = min ((List.range a.count).countP dirty) 65535 ∧
        (∀ m k i, all.max? = some m → k < a.count → i < 64 → holds k i m →
          (∀ j, k < j → j < a.count → ∀ i, i < 64 → ¬holds j i m) →
          (∀ i', i < i' → i' < 64 → ¬holds k i' m) →
          (i < 63 → (∀ i', i < i' → i' < 64 → erased k i') → placed k (i + 1) t) ∧
          (i = 63 ∨ (∃ i', i < i' ∧ i' < 64 ∧ ¬erased k i') → waits (next k) t)) ∧
        (all = [] → 0 < a.count → (∀ i, i < 64 → erased 0 i) → placed 0 0 t) ∧
        (all = [] → 0 < a.count → (∃ i, i < 64 ∧ ¬erased 0 i) → waits 0 t))
      (fun t => t.archive.state = .full → isActive t .archiveFull = true)

/-- FETCH is BUSY while the archive scans or formats, RANGE for a number it does not hold, and else begins
service; each step then, its last reply admitted and no program running, sends the next record's wire form and goes on
to the next number, passes over a number that no valid slot of its sector carries, or ends the fetch with PARTIAL or
its final reply, resuming the erase that it held unless a due program shares the suspension (R165, R169).  The numbers
of RANGE in FAILED, a fetch that meets FAILED, the suspension's end with the final reply's offer, the newest number at
the request as its bound, PARTIAL while it still waits for the port, and a BUSY that waits are the model's reading (log
entries 33, 34, 35, 67, 68 and 83). -/
def Obligations.FetchIsServed : Prop :=
  ∀ s : State,
    let a := s.archive
    (∀ (seq : Seq) (n c : Nat), Ready s →
      (a.state = .scanning ∨ a.state = .formatting → Answers (.fetch seq n c) .busy .none s) ∧
      (a.state = .absent ∨ a.state = .failed ∨ a.oldest = none ∨ (∀ lo, a.oldest = some lo → n < lo) ∨
          (∀ hi, a.newest = some hi → hi < n) → a.state ≠ .scanning → a.state ≠ .formatting →
        Answers (.fetch seq n c) .range (.range (a.oldest.getD 0) (a.newest.getD 0)) s) ∧
      (∀ lo hi, a.state = .normal ∨ a.state = .full → a.oldest = some lo → a.newest = some hi → lo ≤ n →
        n ≤ hi → exec (.fetch seq n c) s = .next { s with mgmt := { s.mgmt with
          request := some ⟨17, seq.val, s.bridge.consoleNode,
            .fetch ⟨n, min (n + max 1 (min 8 c) - 1) hi, decide (c < 1 ∨ 8 < c), false, false⟩⟩ } })) ∧
    (∀ (r : Request) (f : FetchState), StopSettled s → s.mgmt.request = some r → r.kind = .fetch f →
      let waits := f.final = true ∨ s.mgmt.waitingReply ≠ none ∨ a.program ≠ none
      let yields := a.programDue = true ∨ 24 ≤ s.map.queue.length ∨ a.state = .failed
      let reads := f.begun = true ∨ (a.eraseDue = none ∧ ∀ k n, a.erase = .erasing k n → n < 4)
      let held := if f.begun = true then a.erase else match a.erase with
        | .erasing k n => .suspended k (n + 1)
        | x => x
      let freed := if f.begun = true ∧ a.programDue = false then match a.erase with
          | .suspended k n => .erasing k n
          | x => x
        else a.erase
      let goes := some { r with kind := .fetch { f with begun := true, next := f.next + 1 } }
      let last := some { r with kind := .fetch { f with final := true } }
      let sends := fun (c : ReplyCode) (x : ReplyFields) (erase : EraseAhead)
          (admitted refused : Option Request) =>
        let g := replyFrame s.bridge.ownNode r.code r.seq r.src c x
        let o := offerOwn s.bridge g
        exec .fetchRecordRead s = .next { s with
          bridge := o.1
          archive := { a with erase := erase }
          mgmt := { s.mgmt with
            request := if o.2 = .refused then refused else admitted
            waitingReply := if o.2 = .refused then some (portFor s.bridge r.src, g) else none } }
      let low := fun j : Nat => (a.sectors[j]?).bind (·.low)
      let sector := fun j : Nat => ∃ n, low j = some n ∧ n ≤ f.next ∧ (∀ k, k < j → low k ≠ some n) ∧
        ∀ k m, low k = some m → m ≤ f.next → m ≤ n
      let slot := fun j i : Nat => readPlace s.flash (64 * (a.first + j) + i)
      let carried := fun j i : Nat => slotValid (slot j i) = true ∧ slotNumber (slot j i) = f.next
      (waits → exec .fetchRecordRead s = .next s) ∧
      (¬waits → f.last < f.next → sends (if f.clamped then .clamped else .ok) .none freed none last) ∧
      (¬waits → f.next ≤ f.last → yields → sends .part (.next f.next) freed none last) ∧
      (¬waits → f.next ≤ f.last → ¬yields → reads →
        (∀ j i, sector j → i < 64 → carried j i → (∀ k, k < i → ¬carried j k) →
          sends .ok (.record ((slot j i).take 37)) held goes goes) ∧
        ((∀ j i, sector j → i < 64 → ¬carried j i) → exec .fetchRecordRead s = .next { s with
          archive := { a with erase := held }
          mgmt := { s.mgmt with request := goes } })) ∧
      (¬waits → f.next ≤ f.last → ¬yields → ¬reads → exec .fetchRecordRead s = .next s))

/-- MARK in RUN places its record, behind the GAP record of an open gap, or is BUSY; FORMAT in CONFIG takes
the stored range into force and empties its directory, unless the range is not usable or the archive is at
work, and erases range sector 0 next, or first waits for an erase left running or suspended in the flash, with a fresh
erase timer of 2 s; in the other modes both are WRONG_MODE (R154, R156, R170).  A BUSY of either's own rule is the
request code last refused BUSY from then on (R174).  That it waits for its port like any reply, the numbers none and
the write position unplaced from the format's begin, an erase of FAILED remembered, the erase-ahead state NONE
while the format waits, FORMAT's BAD_VALUE before its BUSY, and MARK's reply after the notice that its records bring
are the model's (log entries 44, 45, 73, 75, 83 and 90). -/
def Obligations.MarkAndFormat : Prop :=
  ∀ (seq : Seq) (code : BitVec 16) (s : State), Ready s →
    let a := s.archive
    let record : Record := .mark s.mgmt.jobClock s.map.station code.toNat
    let n := s.map.queue.length
    (s.mgmt.mode ≠ .run → Answers (.mark seq code) .wrongMode .none s) ∧
    (s.mgmt.mode = .run → s.map.gap = none → n < 32 →
      AnswersWith (.mark seq code) [.records] .ok .none s
        (fun t => t.map.queue = s.map.queue ++ [record] ∧ t.map.gap = none)) ∧
    (s.mgmt.mode = .run → ∀ g, s.map.gap = some g → n < 31 →
      Serves (.mark seq code) recordParts .ok .none s (fun _ => True)
        (fun t => t.map.queue = s.map.queue ++ [.gap g, record] ∧ t.map.gap = none)) ∧
    (s.mgmt.mode = .run → (s.map.gap = none ∧ 32 ≤ n) ∨ (s.map.gap ≠ none ∧ 31 ≤ n) →
      Answers (.mark seq code) .busy .none s) ∧
    (s.mgmt.mode ≠ .config → Answers (.format seq) .wrongMode .none s) ∧
    (s.mgmt.mode = .config →
      let usable := a.stored.count ≠ 0 ∧ a.stored.first + a.stored.count ≤ a.stored.size
      let works := a.state = .scanning ∨ a.state = .formatting ∨ a.program.isSome = true ∨ a.buffer ≠ []
      let left := match a.erase with
        | .erasing k _ => some (a.first + k)
        | .suspended k _ => some (a.first + k)
        | .idle => a.left
      (¬usable → Answers (.format seq) .badValue .none s) ∧
      (usable → works → Answers (.format seq) .busy .none s) ∧
      (usable → ¬works → Serves (.format seq) archiveParts .ok .none s
        (fun t => t.archive = { a with
          state := .formatting
          first := a.stored.first
          count := a.stored.count
          size := a.stored.size
          sectors := List.replicate a.stored.count ⟨none, false⟩
          oldest := none
          newest := none
          write := .unplaced
          flush := none
          programDue := false
          erase := .idle
          eraseDue := if left.isNone = true then some 0 else none
          eraseTimer := if left.isNone = true then none else some 2000
          held := none
          failures := 0
          format := if left.isNone = true then .erasing else .waiting
          left := left })
        (fun t => isActive t .archiveFail = false ∧ isActive t .archiveFull = false)))

/-! ### Requests -/

/-- SET_STATION in CONFIG sets the station and the high-water station, SET_CLOCK the job clock with the next
second, the second's end raises the clock by one modulo 2^32, and the job-key line takes its new standing (R34,
R120, R175); the line's place in the state, and that SET_STATION's reply follows the frames that its effect sends, are
the model's (log entries 39 and 90). -/
def Obligations.StationAndClockAreSet : Prop :=
  ∀ (seq : Seq) (n : BitVec 32) (s : State),
    (Ready s → s.mgmt.mode ≠ .config → Answers (.setStation seq n) .wrongMode .none s) ∧
    (Ready s → s.mgmt.mode = .config →
      Serves (.setStation seq n) (.position :: stationParts) .ok .none s
        (fun t => t.travel = { s.travel with station := n.toInt, highWater := n.toInt })
        (fun t => t.map.station = n.toInt ∧ t.map.highWater = n.toInt ∧
          TargetsEvaluated s.level.profile n.toInt s t)) ∧
    (Ready s → AnswersWith (.setClock seq n) [.clock] .ok .none s
      (fun t => t.mgmt.jobClock = n.toNat ∧ t.mgmt.second = some 1000)) ∧
    (StopSettled s → exec .jobClockAdvance s = .next { s with mgmt := { s.mgmt with
      jobClock := (s.mgmt.jobClock + 1) % 4294967296
      second := some 1000 } }) ∧
    (StopSettled s → ∀ on, exec (.jobKeyChange on) s = .next { s with jobKey := on })

/-- A request is answered with what it reads, as STATUS and the READ requests give it, and changes nothing else
(R61, R83, R98, R121, R132, R142, R157, R172, R175, R176, and 1.8, 2.1, 3.5); one out of range, or not listed,
gets its refusal; and while another request is in service every request is answered BUSY, once (R174, R175, R176).
The request code last refused BUSY is that request's then, and with every other answer, here and in every statement of
a request, it is the request's own where the answer is BUSY and as it was where it is not (R174).
An MGMT frame for the own node acts as the request that its channel, sequence and payload spell, if the console
sent it, or is answered BAD_VALUE if its payload is too short, and is else dropped and logged as MGMT_FOREIGN (R8,
R174). Numbers out of range without a rule of their own get BAD_VALUE (log entry 29), how a payload spells fields is
open (log entry 6), and a short payload is told before the hub mode and the index, but after an unknown table (log
entries 30 and 84). -/
def Obligations.RequestsAreAnswered : Prop :=
  (∀ (seq : Seq) (s : State),
    let rowShown := fun i : Fin 7 =>
      let row := s.disp.targets[i].row
      { row with neutral := if i = 6 then (s.voter.floor : Int) else row.neutral }
    (Ready s →
      Answers (.status seq 0) .ok (.hub ⟨s.mgmt.mode, s.mgmt.jobClock, alarmLine s, s.mgmt.lastBusy,
        s.heat.master, s.level.protection.lock, s.jobKey⟩) s ∧
      (let port := fun r : PortRec =>
         (⟨r.state, r.window, r.retrains, r.received, r.errors, r.discards⟩ : PortStatus)
       Answers (.status seq 1) .ok (.ports (port s.bridge.portA) (port s.bridge.portB)) s) ∧
      (let x := s.travel
       Answers (.status seq 2) .ok (.travel ⟨x.station, x.highWater, x.motion, x.heldLeft, x.heldRight,
        x.cLo, x.cHi⟩) s) ∧
      (let x := s.power
       let v := s.voter
       let sum := fun g : Fin 16 → Nat => ((List.finRange 16).map g).sum
       let vote := fun (ts : Vector Nat 7) (n : Nat) => (List.finRange 7).countP fun i : Fin 7 => decide (ts[i] ≤ n)
       let heating := if v.sagStarted = true then 7 else vote v.heating v.heatInput
       let feed := vote v.feed v.feedInput
       let travel := vote v.travel v.travelInput
       let counts := fun (n : Nat) (right : Bool) => if right = true then n else 0
       Answers (.status seq 3) .ok (.power
        { sag := x.sag
          budget := if x.sag = .sag ∨ x.sag = .recovering then x.entry.nominal * x.entry.sagPercent / 100
            else x.entry.nominal
          allocated := sum fun i => x.records[i].rating * x.records[i].alloc / 255
          demand := sum fun i => x.records[i].rating * x.records[i].demand / 255
          heating := (heating, v.heatRight)
          feed := (feed, v.feedRight)
          travel := (travel, v.travelRight)
          resolved := max v.floor (max (counts heating v.heatRight)
            (max (counts feed v.feedRight) (counts travel v.travelRight)))
          requested := v.requested
          downDelay := v.timer }) s) ∧
      (let m := s.map
       Answers (.status seq 4) .ok (.map
        { scan := m.scan
          present := (List.finRange 4).map fun i : Fin 4 => m.segs[i].isSome
          lastApplied := m.lastApplied
          ignored := m.ignored
          taken := m.taken
          notTaken := m.notTaken
          row := m.row.map fun r => ⟨r.start, r.span, r.scanned, r.flags⟩
          queued := m.queue.length
          gap := m.gap.map fun g => ⟨g.first, g.last, g.rows, g.reason, g.restart⟩
          cause := m.cause }) s) ∧
      (let a := s.archive
       let number := fun n : Option Nat => match n with
        | some x => x
        | none => 0
       Answers (.status seq 5) .ok (.archive
        { state := a.state
          rangeFirst := a.first
          rangeCount := a.count
          rangeSize := a.size
          stored := a.stored
          write := a.write
          nextNumber := a.nextNumber
          oldest := number a.oldest
          newest := number a.newest
          buffered := a.buffer.length
          flush := a.flush
          erase := a.erase
          held := a.held
          failures := a.failures
          skipped := a.skipped
          lost := a.lost
          dirty := a.dirty }) s) ∧
      Answers (.status seq 6) .ok (.active
        ((List.finRange 25).map fun k : Fin 25 => s.log.entries[k].active)) s ∧
      (∀ part, 6 < part → Answers (.status seq part) .badValue .none s) ∧
      (∀ table index, 16 < table → Answers (.readEntry seq table index) .badTable .none s) ∧
      (∀ table top index, (table, top) ∈ [(0, 64), (1, 23), (2, 23), (3, 19), (4, 0), (5, 0), (6, 15), (7, 0),
          (8, 3), (9, 1), (10, 63), (11, 0), (12, 1), (13, 6), (14, 0), (15, 0), (16, 24)] → top < index →
        Answers (.readEntry seq table index) .badIndex .none s) ∧
      (let gives := fun (table index : Nat) (x : EntryValue) =>
         Answers (.readEntry seq table index) .ok (.entry x) s
       (∀ i : Fin 64, gives 0 i.val (.node s.bridge.nodes[i])) ∧
       gives 0 64 (.nodePair s.bridge.ownNode s.bridge.consoleNode) ∧
       (∀ i : Fin 24, gives 1 i.val (.filter s.bridge.filters[i])) ∧
       (∀ i : Fin 24, gives 2 i.val (.intake s.intake.entries[i])) ∧
       gives 3 0 (.reference s.rmu.ref) ∧
       (∀ i : Fin 19, gives 3 (i.val + 1) (.sensor s.rmu.lines[i].entry)) ∧
       gives 4 0 (.sweep s.rmu.sweepList) ∧ gives 5 0 (.travel s.travel.params) ∧
       (∀ i : Fin 16, gives 6 i.val (.zone s.heat.zones[i].entry)) ∧ gives 7 0 (.budget s.power.entry) ∧
       gives 8 0 (.thresholds s.voter.heating) ∧ gives 8 1 (.thresholds s.voter.feed) ∧
       gives 8 2 (.thresholds s.voter.travel) ∧ gives 8 3 (.floorDelay s.voter.floor s.voter.downDelay) ∧
       gives 9 0 (.level s.level.left.entry) ∧ gives 9 1 (.level s.level.right.entry) ∧
       (∀ i : Fin 64, gives 10 i.val (.profile s.level.profile[i])) ∧
       gives 11 0 (.protection s.level.protection) ∧
       gives 12 0 (.feed s.feed.left.entry) ∧ gives 12 1 (.feed s.feed.right.entry) ∧
       (∀ i : Fin 7, gives 13 i.val (.target (rowShown i))) ∧ gives 14 0 (.map s.map.entry) ∧
       gives 15 0 (.archive s.archive.stored) ∧
       (∀ i : Fin 25, gives 16 i.val (.condition s.log.entries[i]))) ∧
      (∀ i : Fin 9, Answers (.readSlot seq i.val) .ok (.slot s.intake.slots[i]) s) ∧
      (∀ i, 8 < i → Answers (.readSlot seq i) .badValue .none s) ∧
      (∀ z : Fin 16, Answers (.readZone seq z.val) .ok
        (.zone s.heat.zones[z].vars (match s.heat.zones[z].vars.source with
          | .primary => some s.heat.zones[z].entry.primary
          | .spare => s.heat.zones[z].entry.spare
          | .buddy => s.heat.zones[z].entry.buddy
          | .none => none)) s) ∧
      (∀ z, 15 < z → Answers (.readZone seq z) .badValue .none s) ∧
      (∀ d, Answers (.readSide seq (some d)) .ok (.side (sideVars s d)) s) ∧
      Answers (.readSide seq none) .badValue .none s ∧
      (∀ d, Answers (.readFeed seq (some d)) .ok (.feed (feedVars s d) (match d with
        | .left => s.feed.leftHalf
        | .right => s.feed.rightHalf)) s) ∧
      Answers (.readFeed seq none) .badValue .none s ∧
      (∀ i : Fin 19, Answers (.readLine seq (i.val + 1)) .ok
        (.line s.rmu.lines[i].vars (s.rmu.sweepList.contains (i.val + 1))) s) ∧
      Answers (.readLine seq 0) .ok (.reference s.rmu.lastRef s.rmu.heldRef s.rmu.refAge
        (condEntry s.log .refFail).active (s.rmu.counting.map fun c => (c.line, c.phase))) s ∧
      (∀ i, 19 < i → Answers (.readLine seq i) .badValue .none s) ∧
      (∀ i : Fin 7, Answers (.readTarget seq i.val) .ok
        (.target (rowShown i) s.disp.targets[i].vars s.disp.targets[i].waiting.isSome) s) ∧
      (∀ i, 6 < i → Answers (.readTarget seq i) .badValue .none s) ∧
      (∀ code : Byte, Answers (.unknownRequest seq code) .badValue .none s)) ∧
    (∀ c code q, requestOf c = some (code, q) → s.mgmt.request.isSome = true →
      exec c s = .next { s with
        bridge := (offerOwn s.bridge
          (replyFrame s.bridge.ownNode code q.val s.bridge.consoleNode .busy .none)).1
        mgmt := { s.mgmt with lastBusy := code } })) ∧
  (∀ (p : Port) (clean : Bool) (bytes : List Byte) (f : Frame) (s : State), StopSettled s →
    checkFrame clean bytes = some f → f.cls = .mgmt → f.src ≠ 63 →
    carries (getPort s.bridge p) = true → f.dst = s.bridge.ownNode →
    let c := Instr.frameReceived p clean bytes
    let x := getPort s.bridge p
    let l := payloadOf f
    let seq : Seq := Fin.ofNat 16 f.seq
    let u := onPort p (fun r => { r with received := min (r.received + 1) 65535 }) s
    let acts := fun r : Instr => exec c s = exec r u
    let short := Instr.unknownRequest seq (BitVec.ofNat 8 f.chan)
    (f.src ≠ s.bridge.consoleNode → Completes c logParts s (fun _ => True) (fun t =>
      (condEntry t.log .mgmtForeign).count = min ((condEntry s.log .mgmtForeign).count + 1) 255 ∧
        (getPort t.bridge p).discards = min (x.discards + 1) 65535 ∧ t.mgmt.request = s.mgmt.request)) ∧
    (f.src = s.bridge.consoleNode →
      (f.chan = 11 → acts (.run seq)) ∧ (f.chan = 12 → acts (.stop seq)) ∧ (f.chan = 13 → acts (.resume seq)) ∧
      (f.chan = 18 → acts (.format seq)) ∧ (f.chan = 21 → acts (.resetControl seq)) ∧
      (f.chan = 0 ∨ 21 < f.chan → acts (.unknownRequest seq (BitVec.ofNat 8 f.chan))) ∧
      (f.chan = 1 → ActsAs acts short (Config.numberField 1 l) (.status seq)) ∧
      (f.chan = 4 → ActsAs acts short (Config.numberField 4 l) (.readSlot seq)) ∧
      (f.chan = 5 → ActsAs acts short (Config.numberField 5 l) (.readZone seq)) ∧
      (f.chan = 6 → ActsAs acts short (Config.sideField 6 l) (.readSide seq)) ∧
      (f.chan = 7 → ActsAs acts short (Config.sideField 7 l) (.readFeed seq)) ∧
      (f.chan = 8 → ActsAs acts short (Config.numberField 8 l) (.readLine seq)) ∧
      (f.chan = 9 → ActsAs acts short (Config.numberField 9 l) (.readTarget seq)) ∧
      (f.chan = 10 → ActsAs acts short (Config.setModeFields l) fun m => match m with
        | .heat on => .setModeHeat seq on
        | .level d n => .setModeLevel seq d n
        | .feed d n => .setModeFeed seq d n
        | .otherFunction => .setModeHeat seq none) ∧
      (f.chan = 14 → ActsAs acts short (Config.stationField l) (.setStation seq)) ∧
      (f.chan = 15 → ActsAs acts short (Config.clockField l) (.setClock seq)) ∧
      (f.chan = 16 → ActsAs acts short (Config.markField l) (.mark seq)) ∧
      (f.chan = 17 → ActsAs acts short (Config.fetchFields l) fun x => .fetch seq x.1 x.2) ∧
      (f.chan = 19 → ActsAs acts short (Config.numberField 19 l) (.clearCondition seq)) ∧
      (f.chan = 20 → ActsAs acts short (Config.numberField 20 l) (.clearLine seq)) ∧
      (f.chan = 2 → ActsAs acts short (Config.tableFields l) fun x => .readEntry seq x.1 x.2) ∧
      (f.chan = 3 → match Config.tableFields l with
      | none => acts short
      | some (n, i) =>
        (n = 0 → i ≠ 64 → ActsAs acts short (Config.nodeFields l) (.writeNodeEntry seq i)) ∧
        (n = 0 → i = 64 → ActsAs acts short (Config.pairFields l) fun x => .writeOwnConsoleNode seq x.1 x.2) ∧
        (n = 1 → ActsAs acts short (Config.filterFields l) (.writeFilterEntry seq i)) ∧
        (n = 2 → ActsAs acts short (Config.intakeFields l) (.writeIntakeEntry seq i)) ∧
        (n = 3 → i = 0 → ActsAs acts short (Config.referenceFields l) (.writeReferenceEntry seq)) ∧
        (n = 3 → i ≠ 0 → ActsAs acts short (Config.sensorFields l) (.writeSensorEntry seq i)) ∧
        (n = 4 → ActsAs acts short (Config.sweepFields l) (.writeSweepList seq i)) ∧
        (n = 5 → ActsAs acts short (Config.travelFields l) (.writeTravelParameters seq i)) ∧
        (n = 6 → ActsAs acts short (Config.zoneFields l) (.writeZoneEntry seq i)) ∧
        (n = 7 → ActsAs acts short (Config.budgetFields l) (.writeBudget seq i)) ∧
        (n = 8 → i ≠ 3 → ActsAs acts short (Config.thresholdFields l) fun w =>
          .writeVoteTable seq i (.thresholds w)) ∧
        (n = 8 → i = 3 → ActsAs acts short (Config.floorDelayFields l) fun x =>
          .writeVoteTable seq i (.floorDelay x.1 x.2)) ∧
        (n = 9 → ActsAs acts short (Config.levelFields l) (.writeLevellingEntry seq i)) ∧
        (n = 10 → ActsAs acts short (Config.profileFields l) (.writeProfileEntry seq i)) ∧
        (n = 11 → ActsAs acts short (Config.protectionFields l) (.writeProtectionEntry seq i)) ∧
        (n = 12 → ActsAs acts short (Config.feedFields l) (.writeFeedEntry seq i)) ∧
        (n = 13 → ActsAs acts short (Config.targetFields l) (.writeTargetRow seq i)) ∧
        (n = 14 → ActsAs acts short (Config.mapFields l) (.writeMapEntry seq i)) ∧
        (n = 15 → ActsAs acts short (Config.archiveFields l) (.writeArchiveEntry seq i)) ∧
        (n = 16 → ActsAs acts short (Config.severityField l) (.writeConditionSeverity seq i)) ∧
        (16 < n → (s.mgmt.request.isSome = true → acts short) ∧
          (s.mgmt.request = none → ∃ t, exec c s = .next t ∧ Only answerParts u t ∧
            RepliedFrom u.bridge 3 seq .badTable .none u t)))))

/-- The writes that are served in CONFIG alone: an index beyond the table, another mode, a value that the owning
rule refuses and an order that it refuses get their codes, the first that applies; else the entry is held with its
numeric fields brought into their ranges, CLAMPED where that changes one, the table's other entries as they were, and
the write has the effects of its rule, an empty sweep list removing the held reference count with its age 0 (R10, R11,
R20, R30, R42, R43, R44, R45, R134, R176).  A reply leaves by the tables
as they stand after the write; an unnamed value, an entry of node index 64 and a sensor entry of index 0 are
BAD_VALUE, an unlisted gate and a filter field out of range are refused before the order of the limits and of the
channels, and a notice or command that the write brings,
as SLOT_STALE's, is offered before the reply (log entries 29, 30, 31, 32, 73 and 90). -/
def Obligations.ConfigTablesAreWritten : Prop :=
  ∀ (seq : Seq) (i : Nat) (s : State), Ready s →
    let elsewhere := s.mgmt.mode ≠ .config
    let above := fun (top : Nat) (n : Option Nat) => ∃ x, n = some x ∧ top < x
    (∀ w,
      let c := Instr.writeNodeEntry seq i w
      Tested c s [(64 < i, .badIndex), (elsewhere, .wrongMode),
          (i = 64 ∨ w.side = none ∨ 8 < w.role.length, .badValue)]
        (AnswersWith c [.nodes] .ok .none s fun t =>
          (∃ side, w.side = some side ∧ t.bridge.nodes[ix 63 i] = ⟨side, w.role⟩) ∧
          ∀ j : Fin 64, j ≠ ix 63 i → t.bridge.nodes[j] = s.bridge.nodes[j])) ∧
    (∀ own console,
      let c := Instr.writeOwnConsoleNode seq own console
      Tested c s [(elsewhere, .wrongMode), (62 < own ∨ 62 < console ∨ own = console, .badValue)]
        (AnswersWith c [.nodePair] .ok .none s fun t =>
          t.bridge.ownNode = own ∧ t.bridge.consoleNode = console)) ∧
    (∀ w,
      let c := Instr.writeFilterEntry seq i w
      Tested c s [(23 < i, .badIndex), (elsewhere, .wrongMode),
          (w.cls = none ∨ w.action = none ∨ above 62 w.src ∨ above 63 w.dst ∨ 255 < w.chanLow ∨
            255 < w.chanHigh, .badValue),
          (w.chanHigh < w.chanLow, .badOrder)]
        (AnswersWith c [.filters] .ok .none s fun t =>
          (∃ cls action, w.cls = some cls ∧ w.action = some action ∧ t.bridge.filters[ix 23 i] =
            ⟨w.valid, cls, w.src, w.dst, w.chanLow, w.chanHigh, action, 0⟩) ∧
          ∀ j : Fin 24, j ≠ ix 23 i → t.bridge.filters[j] = s.bridge.filters[j])) ∧
    (∀ w,
      let c := Instr.writeIntakeEntry seq i w
      let e := { w with
        mult := max (-32768) (min 32767 w.mult)
        divisor := max 1 (min 32767 w.divisor)
        add := max (-2147483648) (min 2147483647 w.add)
        limit := max 20 (min 10000 w.limit) }
      Tested c s [(23 < i, .badIndex), (elsewhere, .wrongMode),
          (62 < w.node ∨ 8 < w.slot ∨ (w.width ≠ 1 ∧ w.width ≠ 2 ∧ w.width ≠ 4) ∨ 39 < w.offset ∨
            40 < w.offset + w.width ∨ 255 < w.chan, .badValue)]
        (Serves c (.intakeTable :: logParts) (if e = w then .ok else .clamped) .none s
          (fun t => t.intake.entries[ix 23 i] = ⟨e, 0⟩ ∧
            ∀ j : Fin 24, j ≠ ix 23 i → t.intake.entries[j] = s.intake.entries[j])
          (fun t => isActive t .slotStale = staleNamed t.intake))) ∧
    (∀ w,
      let c := Instr.writeSensorEntry seq i w
      let e : SensorEntry :=
        { r0 := max 500 (min 60000 w.r0)
          sens := max 100 (min 1000 w.sens)
          short := min 65534 w.short
          opened := max 1 (min 65535 w.opened)
          jump := max 1 (min 3000 w.jump) }
      Tested c s [(19 < i, .badIndex), (elsewhere, .wrongMode), (i = 0, .badValue),
          (e.opened ≤ e.short, .badOrder)]
        (AnswersWith c [.sensorTable, .lineStates] (if e = w then .ok else .clamped) .none s fun t =>
          t.rmu.lines[lineIx i] = ⟨e, { s.rmu.lines[lineIx i].vars with lastAccepted := none }⟩ ∧
          ∀ j : Fin 19, j ≠ lineIx i → t.rmu.lines[j] = s.rmu.lines[j])) ∧
    (∀ w,
      let c := Instr.writeReferenceEntry seq w
      let r := max 1000 (min 65535 w.rRef)
      let lo := max 1 (min 65534 w.refLo)
      let hi := max 1 (min 65534 w.refHi)
      let old := s.rmu.ref
      let same := w.mode = some old.mode ∧ w.gate = old.gate ∧ w.periods = old.periods
      Tested c s [(elsewhere, .wrongMode),
          (w.mode = none ∨ w.gate ∉ [1, 2, 4, 8] ∨ w.periods ∉ [4096, 8192, 16384, 32768], .badValue),
          (hi < lo, .badOrder)]
        (Serves c (.refEntry :: .counting :: logParts)
          (if r = w.rRef ∧ lo = w.refLo ∧ hi = w.refHi then .ok else .clamped) .none s
          (fun t => ∃ mode, w.mode = some mode ∧ t.rmu.ref = ⟨mode, w.gate, w.periods, r, lo, hi⟩)
          (fun t => (same → t.rmu = { s.rmu with ref := t.rmu.ref }) ∧
            (¬same → t.rmu.heldRef = none ∧ t.rmu.refAge = 0 ∧ (∀ c, t.rmu.counting = some c → c.line = 0) ∧
              (t.rmu.counting = none ↔ s.rmu.sweepList = []))))) ∧
    (∀ l,
      let c := Instr.writeSweepList seq i l
      Tested c s [(0 < i, .badIndex), (elsewhere, .wrongMode),
          (19 < l.length ∨ (∃ n ∈ l, n = 0 ∨ 19 < n) ∨ ¬l.Nodup, .badValue)]
        (Serves c (.sweepList :: .counting :: logParts) .ok .none s
          (fun t => t.rmu.sweepList = l ∧ (t.rmu.counting = none ↔ l = []) ∧
            (∀ c, t.rmu.counting = some c → c.line = 0) ∧
            (l = [] → t.rmu.heldRef = none ∧ t.rmu.refAge = 0) ∧
            (l ≠ [] → t.rmu.heldRef = s.rmu.heldRef ∧ t.rmu.refAge = s.rmu.refAge))
          (fun t => l = [] → isActive t .refFail = false))) ∧
    (∀ w,
      let c := Instr.writeTravelParameters seq i w
      let e : TravelParams :=
        { stopSpeed := max 1 (min 500 w.stopSpeed)
          parkTime := max 5 (min 600 w.parkTime)
          baseWidth := max 2000 (min 3500 w.baseWidth) / 2 * 2 }
      let half := e.baseWidth / 2
      Tested c s [(0 < i, .badIndex), (elsewhere, .wrongMode)]
        (Serves c (.travelParams :: .widths :: widthParts) (if e = w then .ok else .clamped) .none s
          (fun t => t.travel.params = e ∧ t.travel.leftHalf = half + s.travel.heldLeft ∧
            t.travel.rightHalf = half + s.travel.heldRight)
          (fun t => t.travel.cLo = 32 - (t.travel.leftHalf + 199) / 200 ∧
            t.travel.cHi = min 63 (31 + (t.travel.rightHalf + 199) / 200) ∧
            (t.travel.leftHalf ≠ s.travel.leftHalf ∨ t.travel.rightHalf ≠ s.travel.rightHalf →
              t.feed.leftHalf = t.travel.leftHalf ∧ t.feed.rightHalf = t.travel.rightHalf ∧
              t.feed.baseHalf = half ∧ t.map.cLo = t.travel.cLo ∧ t.map.cHi = t.travel.cHi)))) ∧
    (∀ w,
      let c := Instr.writeTargetRow seq i w
      let n := if i = 6 then 0 else max (if i < 2 then -1000 else 0) (min 1000 w.neutral)
      let timeout := max 10 (min 1000 w.timeout)
      Tested c s [(6 < i, .badIndex), (elsewhere, .wrongMode), (62 < w.node ∨ 255 < w.chan, .badValue),
          (w.enabled = true ∧ ∃ j : Fin 7, j.val ≠ i ∧ s.disp.targets[j].row.enabled = true ∧
            s.disp.targets[j].row.node = w.node ∧ s.disp.targets[j].row.chan = w.chan, .badValue)]
        (Serves c (.targetRows :: .targetStates :: logParts)
          (if timeout = w.timeout ∧ (i = 6 ∨ n = w.neutral) then .ok else .clamped) .none s
          (fun t =>
            let x := s.disp.targets[ix 6 i]
            t.disp.targets[ix 6 i] = ⟨{ w with neutral := n, timeout := timeout }, { x.vars with
              outstanding := none, ackTimer := none, pending := none, lost := false }, none⟩ ∧
            ∀ j : Fin 7, j ≠ ix 6 i → t.disp.targets[j] = s.disp.targets[j])
          (fun t => isActive t .targetLost = t.disp.targets.toList.any (·.vars.lost))))

/-- The writes that are served in CONFIG and RUN, and of a severity in every mode: an index beyond the table,
FAULTSTOP, and what the owning rule refuses get their codes, the first that applies; else the entry is held with its
numeric fields brought into their ranges, CLAMPED where that changes one, every other entry of the table as it was
(R65, R86, R93, R101, R116, R119, R120, R123, R144, R160, R176, R184).  A zone write judges OVERTEMP and the stale
time, limits the boost, selects the source again and evaluates the zone (R64); a budget write allocates again where
the budget differs and sets the comparator (R86, R89); a vote write recomputes the requested level (R93, R97); a
levelling write releases the side (R101); a profile write has both sides evaluate their targets (R116, R118); a feed
write recomputes the commands and tests for starving (R123, R131).  That an unnamed value is BAD_VALUE, what a vote
write of the other form gets, a zone's class above 3 and where a station's range is checked, the comparator's output, which
of two refusals stands, the order of the effects, the reply after the frames that they send, and with what OVERTEMP is
judged are the model's (log entries 29, 30, 31, 38, 60, 72, 73, 79 and 90). -/
def Obligations.RunTablesAreWritten : Prop :=
  ∀ (seq : Seq) (i : Nat) (s : State), Ready s →
    let run := s.mgmt.mode = .run
    let stopped := s.mgmt.mode = .faultstop
    let above := fun (top : Nat) (n : Option Nat) => ∃ x, n = some x ∧ top < x
    let held := s.level.protection
    let locks := held.lock = .frozen ∨ (held.lock = .key ∧ s.jobKey = true)
    (∀ w,
      let c := Instr.writeZoneEntry seq i w
      let z := ix 15 i
      let old := s.heat.zones[z].entry
      let v := s.heat.zones[z].vars
      let x : ZoneEntry := { w with
        buddyOffset := max (-500) (min 500 w.buddyOffset)
        setpoint := max 500 (min 2500 w.setpoint)
        standby := max 500 (min 2500 w.standby)
        warmBand := max 10 (min 300 w.warmBand)
        gain := max 0 (min 255 w.gain)
        hold := max 0 (min 255 w.hold)
        ceiling := max 800 (min 2800 w.ceiling)
        boostMax := max 0 (min 300 w.boostMax)
        boostStep := max 1 (min 50 w.boostStep)
        trigger := max 1 (min 1000 w.trigger)
        rating := max 100 (min 6000 w.rating)
        staleTime := max 500 (min 10000 w.staleTime) }
      let fits := x.setpoint + x.boostMax ≤ x.ceiling - 100
      let e := if fits then x else { x with setpoint := x.ceiling - 100 - x.boostMax }
      let noLine := fun n : Nat => n = 0 ∨ 19 < n
      let selects := e.primary ≠ old.primary ∨ e.spare ≠ old.spare ∨ e.buddy ≠ old.buddy ∨ e.enable ≠ old.enable
      let stale := if e.staleTime = old.staleTime then v.stale else v.temp.isSome && decide (e.staleTime ≤ v.age)
      let hot := e.enable && (match v.temp with
        | none => v.overtemp
        | some (t, _) => if e.ceiling = old.ceiling ∨ v.stale = true then v.overtemp
          else decide (e.ceiling ≤ t) || (v.overtemp && decide (e.ceiling - 50 < t)))
      let b := begin 3 seq s
      let zone : Zone := ⟨e, { v with stale := stale, overtemp := hot, boost := min v.boost e.boostMax }⟩
      let u1 : State := { b with heat := { b.heat with zones := b.heat.zones.set z zone } }
      let u2 := if selects then reselect z u1 else u1
      let u3 := reviewZone z (if e.enable = old.enable then u2 else reselectDependents z u2)
      let u := if e.rating = old.rating ∧ e.cls = old.cls then u3 else demandReport z u3.heat.zones[z] u3
      Tested c s [(15 < i, .badIndex), (stopped, .wrongMode),
          (noLine w.primary ∨ (∃ n, w.spare = some n ∧ noLine n) ∨ above 15 w.buddy ∨ 63 < w.first ∨
            63 < w.last, .badValue),
          (run ∧ (w.primary ≠ old.primary ∨ w.spare ≠ old.spare ∨ w.first ≠ old.first ∨ w.last ≠ old.last ∨
            w.cls ≠ old.cls), .wrongMode),
          (3 < w.cls, .badValue),
          (¬fits ∧ (x.ceiling ≠ old.ceiling ∨ x.boostMax ≠ old.boostMax), .badValue),
          (run ∧ e.enable = true ∧ ¬(e.primary ∈ s.rmu.sweepList ∧ e.spare ≠ some e.primary ∧
            e.buddy ≠ some i ∧ e.first ≤ e.last), .badValue)]
        (Serves c (.zoneTable :: zoneParts) (if e = w then .ok else .clamped) .none s
          (fun t => t.heat.zones[z].entry = e ∧
            ∀ j : Fin 16, j ≠ z → t.heat.zones[j].entry = s.heat.zones[j].entry)
          (fun t => Only answerParts u t ∧
            t.heat.zones[z].vars.overtemp = hot ∧
            (t.heat.zones[z].vars.boost = 0 ∨ t.heat.zones[z].vars.boost = min v.boost e.boostMax) ∧
            (¬selects → t.heat.zones[z].vars.source = v.source ∧ t.heat.zones[z].vars.temp = v.temp ∧
              t.heat.zones[z].vars.stale = stale) ∧
            (e.rating ≠ old.rating ∨ e.cls ≠ old.cls →
              t.power.records[z].rating = e.rating ∧ t.power.records[z].cls = e.cls)))) ∧
    (∀ w,
      let c := Instr.writeBudget seq i w
      let p := s.power
      let e := { w with
        nominal := max 1000 (min 60000 w.nominal)
        sagPercent := max 10 (min 100 w.sagPercent)
        debounce := max 20 (min 2000 w.debounce)
        recover := max 1 (min 60 w.recover) }
      let budget := fun x : BudgetEntry => if p.sag = .sag ∨ p.sag = .recovering
        then x.nominal * x.sagPercent / 100 else x.nominal
      let low := Config.supplyBelow s.samples e.select
      let monitor := fun (g : SagState) (debounce recover : Timer) (t : State) =>
        t.power.sag = g ∧ t.power.debounce = debounce ∧ t.power.recover = recover
      let stays := monitor p.sag p.debounce p.recover
      Tested c s [(0 < i, .badIndex), (stopped, .wrongMode),
          (w.period ∉ [1, 2, 4, 8] ∨ 7 < w.select, .badValue),
          (run ∧ w.period ≠ p.entry.period, .wrongMode)]
        (Serves c (.budget :: .sag :: .samples :: .heatTimer :: allocParts) (if e = w then .ok else .clamped) .none s
          (fun t => t.power.entry = e ∧ (e.period ≠ p.entry.period → t.heat.elapsed = 0))
          (fun t =>
            (e.period ≠ p.entry.period → ∀ z : Fin 16,
              t.heat.zones[z].vars.periodDuty = 0 ∧ t.heat.zones[z].vars.lineOn = false) ∧
            (e.select = p.entry.select → stays t ∧ t.power.below = p.below ∧ t.samples = s.samples ∧
              (budget e = budget p.entry → t.power.records = p.records) ∧
              (budget e ≠ budget p.entry → t.power.records = allocateAll (budget e) p.records ∧
                (e.period = p.entry.period → Only answerParts
                  (allocate { begin 3 seq s with power := { p with entry := e } }) t))) ∧
            (e.select ≠ p.entry.select → e.select = 0 → monitor .normal none none t ∧ t.power.below = false ∧
              (p.sag = .sag ∨ p.sag = .recovering → isActive t .supplySag = false ∧
                t.voter.sagStarted = false ∧ t.power.records = allocateAll e.nominal p.records)) ∧
            (e.select ≠ p.entry.select → e.select ≠ 0 → t.power.below = low ∧ t.samples = s.samples + 1 ∧
              (low = true → (p.sag = .normal → monitor .dipping (some e.debounce) none t) ∧
                (p.sag = .recovering → monitor .sag none none t) ∧
                (p.sag = .dipping ∨ p.sag = .sag → stays t)) ∧
              (low = false → (p.sag = .dipping → monitor .normal none none t) ∧
                (p.sag = .sag → monitor .recovering none (some (e.recover * 1000)) t) ∧
                (p.sag = .normal ∨ p.sag = .recovering → stays t)))))) ∧
    (let asks := fun t : State =>
      let v := s.voter
      let r := resolvedLevel t.voter
      (run → (v.requested < r → t.voter.requested = r ∧ t.voter.timer = none ∧ EngineAsked r s t) ∧
        (v.requested = r → t.voter.requested = r ∧ t.voter.timer = none) ∧
        (r < v.requested → t.voter.requested = v.requested ∧ t.voter.timer = match v.timer with
          | some n => some n
          | none => some (t.voter.downDelay * 1000))) ∧
      (¬run → t.voter.requested = t.voter.floor ∧ t.voter.timer = v.timer ∧
        (v.requested ≠ t.voter.floor → EngineAsked t.voter.floor s t))
     (∀ w : Vector Nat 7,
      let c := Instr.writeVoteTable seq i (.thresholds w)
      let top := if i = 0 then 100000 else if i = 1 then 1000 else 3000
      let ts := w.map fun x => min top x
      Tested c s [(3 < i, .badIndex), (stopped, .wrongMode), (i = 3, .badValue),
          (∃ j : Fin 6, ts[j.val + 1] ≤ ts[j.val], .badOrder)]
        (Serves c (.voteTables :: voteParts) (if ts = w then .ok else .clamped) .none s
          (fun t => t.voter.heating = (if i = 0 then ts else s.voter.heating) ∧
            t.voter.feed = (if i = 1 then ts else s.voter.feed) ∧
            t.voter.travel = (if i = 2 then ts else s.voter.travel) ∧ t.voter.floor = s.voter.floor ∧
            t.voter.downDelay = s.voter.downDelay) asks)) ∧
     (∀ f d,
      let c := Instr.writeVoteTable seq i (.floorDelay f d)
      let floor := min 7 f
      let delay := max 1 (min 60 d)
      Tested c s [(3 < i, .badIndex), (stopped, .wrongMode), (i ≠ 3, .badValue)]
        (Serves c (.voteTables :: voteParts) (if floor = f ∧ delay = d then .ok else .clamped) .none s
          (fun t => t.voter.floor = floor ∧ t.voter.downDelay = delay ∧ t.voter.heating = s.voter.heating ∧
            t.voter.feed = s.voter.feed ∧ t.voter.travel = s.voter.travel) asks))) ∧
    (∀ w,
      let c := Instr.writeLevellingEntry seq i w
      let d := sideOf i
      let e : LevelEntry :=
        { limit := max 4 (min 255 w.limit)
          engage := max 1 (min 255 w.engage)
          release := min 254 w.release
          jump := max 1 (min 2000 w.jump)
          deadband := min 500 w.deadband
          gain := min 255 w.gain
          minimum := min 1000 w.minimum
          maximum := max 1 (min 1000 w.maximum) }
      let v := { sideVars s d with counter := min (sideVars s d).counter e.limit }
      Tested c s [(1 < i, .badIndex), (stopped, .wrongMode),
          (e.limit < e.engage ∨ e.engage ≤ e.release ∨ e.maximum < e.minimum, .badOrder)]
        (Serves c (.levelTable :: levelParts) (if e = w then .ok else .clamped) .none s
          (fun t => (getLevel t.level d).entry = e ∧
            (getLevel t.level (otherSide d)).entry = (getLevel s.level (otherSide d)).entry)
          (fun t =>
            let x := sideVars t d
            let released := v.counter ≤ e.release
            x.counter = v.counter ∧ sideVars t (otherSide d) = sideVars s (otherSide d) ∧
            (released → v.state = .active → x.state = .hold ∧ isActive t .levelHold = true ∧
              x.lastSubmitted = some (neutralOf s (valveOf d))) ∧
            (released → v.state = .frozen → v.remembered = some .active →
              x = { v with remembered := some .hold }) ∧
            (¬released ∨ (v.state ≠ .active ∧ (v.state ≠ .frozen ∨ v.remembered ≠ some .active)) → x = v)))) ∧
    (∀ w,
      let c := Instr.writeProfileEntry seq i w
      let p := s.level.profile
      let e : ProfileEntry := { w with
        station := max (-2147483648) (min 2147483647 w.station)
        left := max (-5000) (min 5000 w.left)
        right := max (-5000) (min 5000 w.right)
        slope := max (-1500) (min 1500 w.slope) }
      let named := held.span ≠ 7 ∧ (match held.anchor with
        | .first => i < 2 ^ held.span
        | .last => 64 ≤ i + 2 ^ held.span)
      let protects := (named ∧ held.invert = false) ∨ (¬named ∧ held.invert = true)
      let nearest := fun j : Fin 64 => p[j].valid = true ∧ ∀ k : Fin 64,
        (j < k ∧ k.val < i) ∨ (i < k.val ∧ k < j) → p[k].valid = false
      Tested c s [(63 < i, .badIndex), (stopped, .wrongMode), (protects ∧ locks, .locked),
          (w.valid = true ∧ ∃ j : Fin 64, nearest j ∧ ((j.val < i ∧ e.station ≤ p[j].station) ∨
            (i < j.val ∧ p[j].station ≤ e.station)), .badOrder)]
        (Serves c (.profile :: levelParts) (if e = w then .ok else .clamped) .none s
          (fun t => t.level.profile[ix 63 i] = e ∧
            ∀ j : Fin 64, j ≠ ix 63 i → t.level.profile[j] = s.level.profile[j])
          (fun t => TargetsEvaluated t.level.profile s.travel.station s t))) ∧
    (∀ w,
      let c := Instr.writeProtectionEntry seq i w
      Tested c s [(0 < i, .badIndex), (stopped, .wrongMode), (locks, .locked),
          (w.anchor = none ∨ w.lock = none ∨ 7 < w.span, .badValue)]
        (AnswersWith c [.protection] .ok .none s fun t => ∃ anchor lock, w.anchor = some anchor ∧
          w.lock = some lock ∧ t.level.protection = ⟨anchor, w.span, w.invert, lock⟩)) ∧
    (∀ w,
      let c := Instr.writeFeedEntry seq i w
      let d := sideOf i
      let e : FeedEntry :=
        { points := w.points.map fun x => (min 600 x.1, min 1000 x.2)
          lowMark := min 600 w.lowMark
          starveTime := max 5 (min 120 w.starveTime) }
      let v := feedVars s d
      Tested c s [(1 < i, .badIndex), (stopped, .wrongMode),
          (∃ j : Fin 7, e.points[j.val + 1].1 ≤ e.points[j.val].1, .badOrder)]
        (Serves c (.feedTable :: feedParts) (if e = w then .ok else .clamped) .none s
          (fun t => (getFeed t.feed d).entry = e ∧
            (getFeed t.feed (otherSide d)).entry = (getFeed s.feed (otherSide d)).entry)
          (fun t =>
            let x := feedVars t d
            feedVars t (otherSide d) = feedVars s (otherSide d) ∧
            (v.state ≠ .running → v.state ≠ .starved → x = v) ∧
            (v.state = .running ∨ v.state = .starved → ∀ l, v.held = some l → FeedFollows s.feed d e l x ∧
              (v.state = .running → x.state = .running) ∧
              (v.state = .starved → x.state = if e.lowMark ≤ l then .running else .starved) ∧
              (x.state = .running → (x.starve.isSome = true ↔ 950 ≤ x.conveyor ∧ l < e.lowMark)) ∧
              (v.state = .running → 950 ≤ x.conveyor → l < e.lowMark → x.starve = match v.starve with
                | some n => some n
                | none => some (e.starveTime * 1000)))))) ∧
    (∀ w,
      let c := Instr.writeMapEntry seq i w
      let m := s.map
      let e := { w with
        pitch := max 25 (min 200 w.pitch)
        cold := min 250 w.cold
        seg := min 250 w.seg }
      Tested c s [(0 < i, .badIndex), (stopped, .wrongMode), (above 62 w.scanner, .badValue),
          (run ∧ (w.scanner ≠ m.entry.scanner ∨ w.pitch ≠ m.entry.pitch), .wrongMode)]
        (AnswersWith c [.mapEntry, .scan] (if e = w then .ok else .clamped) .none s fun t =>
          t.map.entry = e ∧
          (e.scanner = m.entry.scanner → t.map = { m with entry := e }) ∧
          (e.scanner ≠ m.entry.scanner → t.map = { m with
            entry := e, scan := none, segs := .replicate 4 none, window := none, lastApplied := none }))) ∧
    (∀ w,
      let c := Instr.writeArchiveEntry seq i w
      let a := s.archive
      let first := min 65535 w.first
      let count := min 8192 w.count
      let size := max 2 (min 65536 w.size)
      Tested c s [(0 < i, .badIndex), (stopped, .wrongMode), (w.policy = none ∨ w.count = 1, .badValue),
          (run ∧ (w.first ≠ a.stored.first ∨ w.count ≠ a.stored.count ∨ w.size ≠ a.stored.size), .wrongMode)]
        (Serves c (.archiveEntry :: archiveParts)
          (if first = w.first ∧ count = w.count ∧ size = w.size then .ok else .clamped) .none s
          (fun t => (∃ policy, w.policy = some policy ∧
              t.archive.stored = ⟨first, count, size, policy, w.streaming⟩) ∧
            t.archive.first = a.first ∧ t.archive.count = a.count ∧ t.archive.size = a.size ∧
            (∀ j, a.state = .full → w.policy = some .wrap → a.held = some j →
              t.archive.state = .normal ∧ t.archive.eraseDue = some j ∧ t.archive.held = none))
          (fun t => a.state = .full → w.policy = some .wrap → a.held.isSome = true →
            isActive t .archiveFull = false))) ∧
    (∀ w,
      let c := Instr.writeConditionSeverity seq i w
      let e := s.log.entries[ix 24 i]
      let takes := fun (x : Severity) (t : State) => t.log.entries[ix 24 i].severity = x ∧
        (∀ j : Fin 25, j ≠ ix 24 i → t.log.entries[j].severity = s.log.entries[j].severity)
      Tested c s [(24 < i, .badIndex), (w = none, .badValue)] (∀ x, w = some x →
        (s.mgmt.mode ≠ .run ∨ x ≠ .stop ∨ e.active = false →
          AnswersWith c [.severities, .conditions] .ok .none s (fun t => takes x t ∧
            t.log.entries[ix 24 i] = { e with severity := x } ∧
            ∀ j : Fin 25, j ≠ ix 24 i → t.log.entries[j] = s.log.entries[j])) ∧
        (s.mgmt.mode = .run → x = .stop → e.active = true →
          ∃ t, exec c s = .next t ∧ Only (answerParts ++ .severities :: modeParts) s t ∧ takes x t ∧
            t.mgmt.mode = .faultstop ∧ Replied 3 seq .ok .none s t)))

/-- SET_MODE: a value that is not one of the function's, or SLOPE beside a side in SLOPE, is BAD_VALUE; the mode
held changes nothing; another mode is taken, with its side's or its zones' moves, and a guard that it closes leaves
no frame of its own behind; AUTO in RUN makes the AUTO entry test (R13, R66, R102, R118, R125).  A change of the
heating master, ON as OFF, has every zone's state evaluated, with the demand reports, the allocation, the kinds and
the heating right that follow (R66, R71 to R75, R78, R90 to R92).  That a value that is not one of the function's is
BAD_VALUE, and a GRADE side's target none from that moment on, are the model's reading (log entries 29 and 24), and
the reply after the frames that the new mode brings (log entry 90) and the order of the zones, of which nothing is
said, its choice (log entry 71). -/
def Obligations.SetModesAct : Prop :=
  ∀ (seq : Seq) (d : Side) (s : State), Ready s →
    let clear := fun (g : GuardKind) (t : State) =>
      markedCount g t.bridge.portA = 0 ∧ markedCount g t.bridge.portB = 0
    let replied := fun t : State => ∃ b : Bridge, b.ownNode = s.bridge.ownNode ∧ b.nodes = s.bridge.nodes ∧
      RepliedFrom b 10 seq .ok .none s t
    (Answers (.setModeHeat seq none) .badValue .none s ∧
      Answers (.setModeHeat seq (some s.heat.master)) .ok .none s ∧
      Serves (.setModeHeat seq (some (!s.heat.master))) (.heatMaster :: zoneParts) .ok .none s
        (fun t => t.heat.master = !s.heat.master)
        (fun t => ZonesEvaluated s.mgmt.mode (!s.heat.master) s t ∧
          (s.heat.master = true → ∀ z : Fin 16, t.heat.zones[z].vars.state = .disabled ∧
            t.heat.zones[z].vars.lineOn = false))) ∧
    (Answers (.setModeLevel seq d none) .badValue .none s ∧
      ((sideVars s (otherSide d)).mode = .slope →
        Answers (.setModeLevel seq d (some .slope)) .badValue .none s) ∧
      ((sideVars s d).mode ≠ .slope ∨ (sideVars s (otherSide d)).mode ≠ .slope →
        Answers (.setModeLevel seq d (some (sideVars s d).mode)) .ok .none s) ∧
      (∀ m, m ≠ (sideVars s d).mode → m ≠ .slope ∨ (sideVars s (otherSide d)).mode ≠ .slope →
        Completes (.setModeLevel seq d (some m)) (answerParts ++ levelParts) s
          (fun t => (sideVars t d).mode = m ∧
            (s.mgmt.mode = .run → automatic m = true → automatic (sideVars s d).mode = false →
              clear (levelGuard d) t))
          (fun t => replied t ∧ (sideVars t d).base = none ∧ (sideVars t d).counter = 0 ∧
            (sideVars t d).lastValid = none ∧ sideVars t (otherSide d) = sideVars s (otherSide d) ∧
            (m = .grade → (sideVars t d).target = none) ∧
            (m = .manual ∨ s.mgmt.mode = .config → (sideVars t d).state = .standby) ∧
            (automatic m = true → s.mgmt.mode = .faultstop → (sideVars t d).state = .hold) ∧
            (automatic m = true → s.mgmt.mode = .run →
              (s.level.motion = .forward → (sideVars t d).state = .acquire) ∧
              (s.level.motion ≠ .forward → (sideVars t d).state = .frozen ∧
                (sideVars t d).remembered = some .acquire))))) ∧
    (Answers (.setModeFeed seq d none) .badValue .none s ∧
      Answers (.setModeFeed seq d (some (feedVars s d).mode)) .ok .none s ∧
      (∀ m, m ≠ (feedVars s d).mode →
        Completes (.setModeFeed seq d (some m)) (answerParts ++ feedParts) s
          (fun t => (feedVars t d).mode = m ∧
            (s.mgmt.mode = .run → m = .auto → clear (feedGuard d) t))
          (fun t => replied t ∧ (m = .manual ∨ s.feed.hubMode ≠ .run → (feedVars t d).state = .standby) ∧
            (m = .auto → s.feed.hubMode = .run →
              (s.feed.motion = .parked → (feedVars t d).state = .paused) ∧
              (s.feed.motion ≠ .parked → (feedVars s d).fresh = true → (feedVars t d).state = .running) ∧
              (s.feed.motion ≠ .parked → (feedVars s d).fresh = false →
                (feedVars t d).state = .sensorless)) ∧
            feedVars t (otherSide d) = feedVars s (otherSide d))))

/-- RUN in CONFIG is validated by the six checks in their order, the first that fails naming itself and its
index, and enters RUN: the row opens, the sides of levelling and feed in an automatic mode are set going, and the
requested level takes the resolved level.  FAULTSTOP follows its OK reply at once where a level kind of severity STOP
is active whose owner the entry does not make judge it again, and the hub stays in RUN where no active kind, and none
that the entry can raise, has severity STOP.  STOP and RESUME enter CONFIG, where the sides stand by and no row and no
gap is open; elsewhere they are WRONG_MODE, and RESUME is HELD while a STOP kind is active (R97, R104, R125, R126,
R149, R156, R177 to R179).  An occurrence changes its kind's entry, sets its alarm flag and sends its notice by the
severity, and with severity STOP in RUN the hub enters FAULTSTOP, where automatic sides hold, the feed sides stand by,
the requested level is the floor and every enabled target has its neutral value outstanding or pending; a level
kind's end clears its active flag and, under the release mark, its alarm flag (R97, R104, R126, R141, R148, R179 to
R181).  At each of these changes every zone's state is evaluated for the new hub mode, DISABLED or IDLE outside RUN and
by its temperature in RUN, with its demand duty and heater line, and the reports, the allocation, the kinds and the
heating right follow (R71 to R75, R78, R81, R90 to R92, R177).  A notice that replaces a waiting one, the moment of the
entry, the last valid reading it keeps and a BUSY that waits are the model's choice (log entries 23, 58, 61 and 83),
and so is the order of the zones, of which the statement says nothing (log entry 71). -/
def Obligations.HubModesChange : Prop :=
  (∀ (seq : Seq) (s : State), Ready s →
    let stops := fun k : CondKind => (condEntry s.log k).severity = .stop
    let stands := fun k : CondKind => isActive s k = true ∧ (condEntry s.log k).severity = .stop
    let enters := fun (c : Instr) (code : Nat) =>
      ∃ t, exec c s = .next t ∧ Only (answerParts ++ modeParts) s t ∧ Replied code seq .ok .none s t ∧
        t.mgmt.mode = .config ∧ t.disp.hubMode = .config ∧ t.feed.hubMode = .config ∧
        t.map.hubMode = .config ∧ t.map.row = none ∧ t.map.gap = none ∧
        (∀ d, SideRests d s t ∧ FeedRests d s t) ∧ ZonesEvaluated .config s.heat.master s t ∧
        (code = 12 → t.voter.requested = s.voter.floor ∧ t.voter.timer = none ∧ EngineAsked s.voter.floor s t) ∧
        (code = 13 → t.voter.requested = s.voter.requested ∧ t.voter.timer = s.voter.timer)
    let replied := fun t : State => ∃ b : Bridge, b.ownNode = s.bridge.ownNode ∧
      b.nodes = s.bridge.nodes ∧ RepliedFrom b 11 seq .ok .none s t
    let named := fun slot : Nat => ∃ i : Fin 24, s.intake.entries[i].entry.valid = true ∧
      s.intake.entries[i].entry.slot = slot
    let zoneGood := fun z : Fin 16 =>
      let e := s.heat.zones[z].entry
      e.enable = true → e.primary ∈ s.rmu.sweepList ∧ e.spare ≠ some e.primary ∧ e.buddy ≠ some z.val ∧
        e.first ≤ e.last ∧ e.setpoint + e.boostMax ≤ e.ceiling - 100
    let auto := fun d : Side => (feedVars s d).mode = .auto
    let used := fun i : Fin 7 => match i with
      | 0 => (sideVars s .left).mode ≠ .manual
      | 1 => (sideVars s .right).mode ≠ .manual
      | 2 | 4 => auto .left
      | 3 | 5 => auto .right
      | 6 => s.heat.master = true ∨ auto .left ∨ auto .right
    let rowGood := fun i : Fin 7 => used i → s.disp.targets[i].row.enabled = true
    let one := s.bridge.ownNode ≠ s.bridge.consoleNode
    let two := named 0 ∧ named 1
    let three := ∀ z, zoneGood z
    let four := ∀ i, rowGood i
    let five := s.power.entry.nominal ≠ 0
    let six := s.archive.stored.count = 0 ∨
      s.archive.stored.first + s.archive.stored.count ≤ s.archive.stored.size
    (validateRun s = none ↔ one ∧ two ∧ three ∧ four ∧ five ∧ six) ∧
    (∀ c i, validateRun s = some (c, i) →
      (c = 1 ∧ i = 0 ∧ ¬one) ∨
      (one ∧ c = 2 ∧ ((i = 0 ∧ ¬named 0) ∨ (i = 1 ∧ named 0 ∧ ¬named 1))) ∨
      (one ∧ two ∧ c = 3 ∧ ∃ z : Fin 16, i = z.val ∧ ¬zoneGood z ∧ ∀ y, y < z → zoneGood y) ∨
      (one ∧ two ∧ three ∧ c = 4 ∧ ∃ j : Fin 7, i = j.val ∧ ¬rowGood j ∧ ∀ k, k < j → rowGood k) ∨
      (one ∧ two ∧ three ∧ four ∧ c = 5 ∧ i = 0 ∧ ¬five) ∨
      (one ∧ two ∧ three ∧ four ∧ five ∧ c = 6 ∧ i = 0 ∧ ¬six)) ∧
    (s.mgmt.mode ≠ .config → Answers (.run seq) .wrongMode .none s) ∧
    (s.mgmt.mode = .config → s.archive.state = .formatting → Answers (.run seq) .busy .none s) ∧
    (s.mgmt.mode = .config → s.archive.state ≠ .formatting → ∀ c i, validateRun s = some (c, i) →
      Answers (.run seq) .badConfig (.badConfig c i) s) ∧
    (s.mgmt.mode = .config → s.archive.state ≠ .formatting → validateRun s = none →
      ∃ u, exec (.run seq) s = .next (settle u) ∧ Only (answerParts ++ modeParts) s u ∧
        Only modeParts u (settle u) ∧ replied u ∧ u.mgmt.mode = .run ∧ u.disp.hubMode = .run ∧
        u.feed.hubMode = .run ∧ u.map.hubMode = .run ∧
        (∃ r, u.map.row = some r ∧ r.start = s.map.highWater ∧ r.pitch = s.map.entry.pitch ∧
          r.scanned = false ∧ r.cells = .replicate 64 ⟨0, 0⟩) ∧
        (∀ d, SideStarts d s u ∧ FeedStarts d s u) ∧ ZonesEvaluated .run s.heat.master s u ∧
        ((settle u).mgmt.mode = .faultstop → ZonesEvaluated .faultstop s.heat.master u (settle u)) ∧
        (let r := resolvedLevel u.voter
         (u.voter.requested = r ∨ (r < u.voter.requested ∧ u.voter.timer.isSome = true)) ∧
           EngineAsked u.voter.requested s u) ∧
        ((∀ k, stops k → isActive s k = false ∧
            k ∉ [.zoneFault, .heatShed, .levelHold, .profileEnd, .feedStarved, .recordGap, .guardBlock] ∧
            (k = .zoneOvertemp → ∀ z : Fin 16, s.heat.zones[z].vars.overtemp = false)) → settle u = u) ∧
        ((∃ k ∈ [CondKind.linkADown, .linkBDown, .slotStale, .lineFailed, .refFail, .supplySag, .targetLost,
            .archiveFail, .archiveFull], stands k) ∨
          (stands .zoneOvertemp ∧ ∃ z : Fin 16, s.heat.zones[z].vars.overtemp = true) →
          (settle u).mgmt.mode = .faultstop)) ∧
    (s.mgmt.mode ≠ .run → Answers (.stop seq) .wrongMode .none s) ∧
    (s.mgmt.mode = .run → enters (.stop seq) 12) ∧
    (s.mgmt.mode ≠ .faultstop → Answers (.resume seq) .wrongMode .none s) ∧
    (s.mgmt.mode = .faultstop →
      let held := ∃ k, isLevelKind k = true ∧ stands k
      (held → Answers (.resume seq) .held .none s) ∧ (¬held → enters (.resume seq) 13))) ∧
  (∀ (k : CondKind) (s : State),
    let e := condEntry s.log k
    let t := occur k s
    let f := condEntry t.log k
    let w := s.log.waiting
    let urgent := decide (e.severity = .alert ∨ e.severity = .stop)
    let g : Frame := ⟨.notice, urgent, s.log.noticeCount, 0, s.bridge.consoleNode, s.bridge.ownNode,
      (condNum k).val, .condition f.count f.firstTime f.lastTime f.active f.severity⟩
    let notifies := e.armed = true ∧ e.severity ≠ .ignore
    f.count = min (e.count + 1) 255 ∧ f.firstTime = (if e.count = 0 then s.mgmt.jobClock else e.firstTime) ∧
    f.lastTime = s.mgmt.jobClock ∧ f.severity = e.severity ∧
    (isLevelKind k = true → f.active = true ∧ f.release = false) ∧
    (isLevelKind k = false → f.active = e.active ∧ f.release = e.release) ∧
    (urgent = true → f.alarm = true ∧ alarmLine t = true) ∧ (urgent = false → f.alarm = e.alarm) ∧
    (e.severity ≠ .ignore → f.armed = false) ∧ (e.severity = .ignore → f.armed = e.armed) ∧
    (∀ j, j ≠ k → condEntry t.log j = condEntry s.log j) ∧
    (¬notifies → t.bridge = s.bridge ∧ t.log.waiting = w ∧ t.log.noticeCount = s.log.noticeCount) ∧
    (notifies → t.log.noticeCount = (s.log.noticeCount + 1) % 16 ∧
      ((∀ x ∈ w, x.1 ≠ k) → t.bridge = (offerOwn s.bridge g).1 ∧
        t.log.waiting = if (offerOwn s.bridge g).2 = .refused
          then w ++ [(k, portFor s.bridge s.bridge.consoleNode, g)] else w) ∧
      ((∃ x ∈ w, x.1 = k) → t.bridge = s.bridge ∧ t.log.waiting = w.map fun x =>
        if x.1 = k then (k, portFor s.bridge s.bridge.consoleNode, g) else x)) ∧
    (e.severity = .stop → s.mgmt.mode = .run → (settle t).mgmt.mode = .faultstop ∧
      ∀ i : Fin 7, s.disp.targets[i].row.enabled = true →
        let y := (settle t).disp.targets[i]
        let n := neutralOf s i
        (∃ o, y.vars.outstanding = some o ∧ o.value = n ∧ (TargetsWhole s → y.vars.pending = none)) ∨
          y.vars.pending = some n) ∧
    (e.severity = .stop → s.mgmt.mode = .run →
      let y := settle t
      y.disp.hubMode = .faultstop ∧ y.feed.hubMode = .faultstop ∧ y.map.hubMode = .faultstop ∧
        y.map.cause = .resumed ∧ (∀ d, SideHolds d s y ∧ FeedRests d s y) ∧
        ZonesEvaluated .faultstop s.heat.master s y ∧
        y.voter.requested = s.voter.floor ∧ y.voter.timer = none ∧ EngineAsked s.voter.floor s y ∧
        ∀ r, s.map.row = some r → ∃ q, y.map.row = some q ∧ q.start = r.start ∧ q.cells = r.cells ∧
          q.flags.getLsbD 9 = true) ∧
    (StopSettled s → e.severity ≠ .stop ∨ s.mgmt.mode ≠ .run → settle t = t) ∧
    setLevelKind k true s = (if e.active = true then s else t) ∧
    (setLevelKind k false s = if e.active = true then { s with log := { s.log with
        entries := s.log.entries.set (condNum k) { e with
          active := false
          alarm := e.alarm && !e.release
          release := false } } } else s)) ∧
  (∀ (p : Port) (s : State), StopSettled s → s.mgmt.mode = .run →
    let x := getPort s.bridge p
    x.attempt.isSome = true → x.state = .retrain → 2 ≤ x.retrains → isActive s (downKind p) = false →
    (condEntry s.log (downKind p)).severity = .stop →
    ∃ t, exec (.retrainAttemptEnds p) s = .next t ∧ t.mgmt.mode = .faultstop ∧
      isActive t (downKind p) = true)

/-- CLEAR_CONDITION carries a kind or 255 for all: its count and times become 0 and it is armed; the alarm flag
is cleared but for an active level kind, which takes the release mark; any other value is BAD_VALUE (R183). -/
def Obligations.ConditionsAreCleared : Prop :=
  ∀ (seq : Seq) (n : Nat) (s : State), Ready s →
    let c := Instr.clearCondition seq n
    (24 < n → n ≠ 255 → Answers c .badValue .none s) ∧
    (n ≤ 24 ∨ n = 255 → AnswersWith c [.conditions] .ok .none s (fun t =>
      ∀ k : CondKind,
        let e := condEntry s.log k
        (n ≠ 255 → n ≠ (condNum k).val → condEntry t.log k = e) ∧
        (n = 255 ∨ n = (condNum k).val → condEntry t.log k =
          if isLevelKind k = true ∧ e.active = true then
            { e with count := 0, firstTime := 0, lastTime := 0, armed := true, release := true }
          else { e with count := 0, firstTime := 0, lastTime := 0, armed := true, alarm := false })))

/-- CLEAR_LINE makes a FAILED line UNKNOWN and leaves any other line; RESET_CONTROL offers its reply first, and
the control reset falls due when the reply is admitted or dropped, the request in service until then (R59, R175).
That it falls due as an internal event is the model's form of time and order (log entries 2 and 85), and CLEAR_LINE's
reply after the frames that its effect sends is its choice (log entry 90). -/
def Obligations.LinesAreClearedAndResetAsked : Prop :=
  ∀ (seq : Seq) (s : State), Ready s →
    (∀ n, n = 0 ∨ 19 < n → Answers (.clearLine seq n) .badValue .none s) ∧
    (∀ i : Fin 19, s.rmu.lines[i].vars.state ≠ .failed →
      Answers (.clearLine seq (i.val + 1)) .ok .none s) ∧
    (∀ i : Fin 19, s.rmu.lines[i].vars.state = .failed →
      Serves (.clearLine seq (i.val + 1)) (.lineStates :: zoneParts) .ok .none s
        (fun t => t.rmu.lines[i].vars = { s.rmu.lines[i].vars with
            state := .unknown, faults := 0, recovery := 0, lastAccepted := none } ∧
          ∀ j : Fin 19, j ≠ i → t.rmu.lines[j] = s.rmu.lines[j])
        (fun t => isActive t .lineFailed = t.rmu.lines.toList.any (·.vars.state == .failed))) ∧
    (let f := replyFrame s.bridge.ownNode 21 seq.val s.bridge.consoleNode .ok .none
     let o := offerOwn s.bridge f
     ∃ t, exec (.resetControl seq) s = .next t ∧ Only answerParts s t ∧ t.bridge = o.1 ∧
      t.mgmt.request = some ⟨21, seq.val, s.bridge.consoleNode, .reset (decide (o.2 ≠ .refused))⟩ ∧
      t.mgmt.lastBusy = s.mgmt.lastBusy ∧
      (o.2 ≠ .refused → .controlReset ∈ dueEvents t ∧ t.mgmt.waitingReply = s.mgmt.waitingReply) ∧
      (o.2 = .refused → .controlReset ∉ dueEvents t ∧
        t.mgmt.waitingReply = some (portFor s.bridge f.dst, f)))

/-- A power-on reset keeps the archive entry, the job-key line and the flash, a program that was running
excepted, and leaves the other blocks as after reset (R18, R28, R40, R62, R84, R99, R122, R133, R143, R158,
R167, R173, R185); a control reset keeps the tables, the archive, the targets' sent counts and, where no gap is
open, the link, and leaves CONFIG with every alarm off (R19, R29, R41, R63, R85, R100, R122, R133, R143, R159,
R175, R185).  The job-key line kept, the log reset last, and a control reset whenever the event is
given are the model's choice (log entries 39, 46 and 85). -/
def Obligations.ResetsLeaveTheirState : Prop :=
  ∀ s : State,
    (∃ t, exec .powerOnReset s = .next t ∧ t.bridge = State.reset.bridge ∧ t.intake = State.reset.intake ∧
      t.travel = State.reset.travel ∧ t.rmu = State.reset.rmu ∧ t.heat = State.reset.heat ∧
      t.power = State.reset.power ∧ t.voter = State.reset.voter ∧ t.level = State.reset.level ∧
      t.feed = State.reset.feed ∧ t.disp = State.reset.disp ∧ t.map = State.reset.map ∧
      t.mgmt = State.reset.mgmt ∧ t.log = State.reset.log ∧ t.archive.stored = s.archive.stored ∧
      t.archive.first = s.archive.stored.first ∧ t.archive.count = s.archive.stored.count ∧
      t.archive.size = s.archive.stored.size ∧
      (t.archive.state = .scanning ↔ s.archive.stored.count ≠ 0 ∧
        s.archive.stored.first + s.archive.stored.count ≤ s.archive.stored.size) ∧
      (t.archive.state = .scanning ∨ t.archive.state = .absent) ∧
      t.archive.buffer = [] ∧ t.archive.flush = none ∧ t.archive.erase = .idle ∧
      (s.archive.program = none → t.flash = s.flash) ∧ t.jobKey = s.jobKey) ∧
    (∃ t, exec .controlReset s = .next t ∧ (∀ p, notTable p = false → p.same s t) ∧
      Part.same s t .archive ∧ Part.same s t .flash ∧ t.mgmt.mode = .config ∧ t.mgmt.request = none ∧
      t.mgmt.jobClock = s.mgmt.jobClock ∧ t.mgmt.lastBusy = s.mgmt.lastBusy ∧
      (s.map.gap = none → t.bridge = s.bridge ∧ t.map.queue = s.map.queue) ∧ t.map.gap = none ∧
      t.map.row = none ∧ t.map.cause = .controlReset ∧
      t.travel.station = s.travel.station ∧ t.travel.highWater = s.travel.highWater ∧
      t.travel.motion = .stopped ∧ (∀ i : Fin 9, t.intake.slots[i] = .reset) ∧
      t.heat.master = false ∧ (∀ z : Fin 16, t.heat.zones[z].vars = .reset) ∧
      t.voter.requested = s.voter.floor ∧ t.level.left.vars = .reset ∧ t.level.right.vars = .reset ∧
      t.feed.left.vars = .reset ∧ t.feed.right.vars = .reset ∧
      (∀ i : Fin 7, t.disp.targets[i].vars.outstanding = none ∧
        t.disp.targets[i].vars.sent = s.disp.targets[i].vars.sent) ∧
      (∀ i : Fin 19, t.rmu.lines[i].vars.state = .unknown ∧
        t.rmu.lines[i].vars.lastRaw = s.rmu.lines[i].vars.lastRaw) ∧
      alarmLine t = false ∧
      (∀ k, isActive t k = true → isActive s k = true) ∧
      (isActive t .archiveFail = (isActive s .archiveFail && s.archive.state == .failed)))
end

