-- ==== Sys2Proof/Laws/Flash.lean ====
section
/-! SUPPORT. The flash: every operation keeps its canonical form, and what a byte reads as after each. -/

namespace Sys2Proof.Machine

/-! ### Rising keys -/

theorem rising_iff {α : Type} (l : List (Nat × α)) :
    rising l = true ↔ l.Pairwise (fun x y => x.1 < y.1) := by
  match l with
  | [] => simp [rising]
  | [x] => simp [rising]
  | x :: y :: rest =>
    have ih := rising_iff (y :: rest)
    simp only [rising, Bool.and_eq_true, decide_eq_true_eq, ih, List.pairwise_cons]
    constructor
    · rintro ⟨hxy, hy, hr⟩
      refine ⟨fun z hz => ?_, hy, hr⟩
      rcases List.mem_cons.mp hz with rfl | hz
      · exact hxy
      · exact Nat.lt_trans hxy (hy z hz)
    · rintro ⟨hx, hy, hr⟩
      exact ⟨hx y (by simp), hy, hr⟩

theorem rising_filter {α : Type} {l : List (Nat × α)} (p : Nat × α → Bool) (h : rising l = true) :
    rising (l.filter p) = true := by
  rw [rising_iff] at h ⊢
  exact h.sublist List.filter_sublist

theorem mem_putKey {α : Type} {k : Nat} {x : α} {l : List (Nat × α)} {z : Nat × α}
    (h : z ∈ putKey k x l) : z = (k, x) ∨ z ∈ l := by
  induction l with
  | nil => simpa [putKey] using h
  | cons y ys ih =>
    unfold putKey at h
    split at h
    · simpa using h
    · split at h
      · rcases List.mem_cons.mp h with h | h
        · exact .inl h
        · exact .inr (List.mem_cons_of_mem _ h)
      · rcases List.mem_cons.mp h with h | h
        · exact .inr (h ▸ List.mem_cons_self)
        · rcases ih h with h | h
          · exact .inl h
          · exact .inr (List.mem_cons_of_mem _ h)

theorem rising_putKey {α : Type} (k : Nat) (x : α) {l : List (Nat × α)} (h : rising l = true) :
    rising (putKey k x l) = true := by
  rw [rising_iff] at h ⊢
  induction l with
  | nil => simp [putKey]
  | cons y ys ih =>
    have hy := List.pairwise_cons.mp h
    unfold putKey
    split
    · next hk =>
      refine List.pairwise_cons.mpr ⟨fun z hz => ?_, h⟩
      rcases List.mem_cons.mp hz with rfl | hz
      · exact hk
      · exact Nat.lt_trans hk (hy.1 z hz)
    · split
      · next hk => exact List.pairwise_cons.mpr ⟨fun z hz => hk ▸ hy.1 z hz, hy.2⟩
      · refine List.pairwise_cons.mpr ⟨fun z hz => ?_, ih hy.2⟩
        rcases mem_putKey hz with rfl | hz
        · show y.1 < k; omega
        · exact hy.1 z hz

/-! ### The canonical form -/

theorem wf_iff (f : Flash) : Memory.wf f = true ↔
    rising f.cells = true ∧ (∀ c ∈ f.cells, c.2 ≠ 255) ∧ rising f.unsettled = true := by
  simp [Memory.wf, and_assoc]

/-- A list of cells in canonical form. -/
def cellsWf (l : List Host.Cell) : Prop := rising l = true ∧ ∀ c ∈ l, c.2 ≠ 255

theorem putByte_wf {l : List Host.Cell} (a : Nat) (b : Byte) (h : cellsWf l) : cellsWf (putByte l a b) := by
  unfold putByte
  split
  · exact ⟨rising_filter _ h.1, fun c hc => h.2 c (List.mem_filter.mp hc).1⟩
  · next hb =>
    refine ⟨rising_putKey a b h.1, fun c hc => ?_⟩
    rcases mem_putKey hc with rfl | hc
    · exact hb
    · exact h.2 c hc

theorem putBytes_wf (bs : List Byte) : ∀ {l : List Host.Cell} (a : Nat), cellsWf l → cellsWf (putBytes l a bs) := by
  induction bs with
  | nil => intro l a h; exact h
  | cons b bs ih => intro l a h; exact ih (a + 1) (putByte_wf a b h)

theorem programPlace_wf {f : Flash} (place : Nat) (l : List Byte) (h : Memory.wf f = true) :
    Memory.wf (programPlace f place l) = true := by
  rw [wf_iff] at h ⊢
  have := putBytes_wf (l.take 64) (64 * place) ⟨h.1, h.2.1⟩
  exact ⟨this.1, this.2, rising_filter _ h.2.2⟩

theorem unsettle_wf {f : Flash} (mark place : Nat) (h : Memory.wf f = true) :
    Memory.wf (unsettle mark f place) = true := by
  rw [wf_iff] at h ⊢
  exact ⟨rising_filter _ h.1, fun c hc => h.2.1 c (List.mem_filter.mp hc).1, rising_putKey _ _ h.2.2⟩

theorem foldl_wf {α : Type} (g : Flash → α → Flash) (xs : List α)
    (hg : ∀ f x, Memory.wf f = true → Memory.wf (g f x) = true) {f : Flash} (h : Memory.wf f = true) :
    Memory.wf (xs.foldl g f) = true := by
  induction xs generalizing f with
  | nil => exact h
  | cons x xs ih => exact ih (hg f x h)

theorem unsettleSector_wf {f : Flash} (mark sector : Nat) (h : Memory.wf f = true) :
    Memory.wf (unsettleSector mark f sector) = true :=
  foldl_wf _ _ (fun _ _ hf => unsettle_wf _ _ hf) h

theorem eraseSector_wf {f : Flash} (sector : Nat) (h : Memory.wf f = true) :
    Memory.wf (eraseSector f sector) = true := by
  rw [wf_iff] at h ⊢
  exact ⟨rising_filter _ h.1, fun c hc => h.2.1 c (List.mem_filter.mp hc).1, rising_filter _ h.2.2⟩

theorem reset_wf : Memory.wf State.reset.flash = true := rfl

/-! ### Reading after an operation -/

theorem find_putKey_self {α : Type} (k : Nat) (x : α) (l : List (Nat × α)) :
    (putKey k x l).find? (·.1 == k) = some (k, x) := by
  induction l with
  | nil => simp [putKey]
  | cons y ys ih =>
    unfold putKey
    split
    · simp
    · split
      · simp
      · next h1 h2 => rw [List.find?_cons_of_neg (by simp; omega)]; exact ih

theorem find_putKey_other {α : Type} {k a : Nat} (x : α) (l : List (Nat × α)) (h : a ≠ k) :
    (putKey k x l).find? (·.1 == a) = l.find? (·.1 == a) := by
  induction l with
  | nil => simp [putKey, Ne.symm h]
  | cons y ys ih =>
    unfold putKey
    split
    · rw [List.find?_cons_of_neg (by simp; omega)]
    · split
      · next h2 =>
        rw [List.find?_cons_of_neg (by simp; omega), List.find?_cons_of_neg (by simp; omega)]
      · rw [List.find?_cons, List.find?_cons, ih]

theorem find_filter_ne {α : Type} (k : Nat) (l : List (Nat × α)) :
    (l.filter (·.1 != k)).find? (·.1 == k) = none := by
  rw [List.find?_eq_none]
  intro x hx
  simpa using (List.mem_filter.mp hx).2

/-- A filter that keeps every entry of a key does not change what is found there. -/
theorem find_filter_keep {α : Type} (a : Nat) (p : Nat × α → Bool) (l : List (Nat × α))
    (h : ∀ x, x.1 = a → p x = true) : (l.filter p).find? (·.1 == a) = l.find? (·.1 == a) := by
  induction l with
  | nil => rfl
  | cons y ys ih =>
    by_cases hy : y.1 = a
    · simp [h y hy, hy]
    · rw [List.filter_cons]
      split
      · rw [List.find?_cons_of_neg (by simpa using hy), List.find?_cons_of_neg (by simpa using hy), ih]
      · rw [List.find?_cons_of_neg (by simpa using hy), ih]

/-- The byte put at an address is held there, whatever it is. -/
theorem cellAt_putByte_self (l : List Host.Cell) (a : Nat) (b : Byte) : cellAt (putByte l a b) a = b := by
  unfold putByte cellAt
  split
  · next h =>
    have := find_filter_ne a l
    rw [this, h]
    rfl
  · rw [find_putKey_self]
    rfl

/-- A byte put at one address leaves every other address alone. -/
theorem cellAt_putByte_other (l : List Host.Cell) {a c : Nat} (b : Byte) (h : c ≠ a) :
    cellAt (putByte l a b) c = cellAt l c := by
  unfold putByte cellAt
  split
  · rw [find_filter_keep c _ l (fun x hx => by simpa [hx] using h)]
  · rw [find_putKey_other b l h]

theorem cellAt_putBytes_below (bs : List Byte) : ∀ (l : List Host.Cell) (a : Nat) {c : Nat}, c < a →
    cellAt (putBytes l a bs) c = cellAt l c := by
  induction bs with
  | nil => intro l a c _; rfl
  | cons b bs ih =>
    intro l a c h
    show cellAt (putBytes (putByte l a b) (a + 1) bs) c = _
    rw [ih _ _ (by omega), cellAt_putByte_other _ _ (by omega)]

theorem cellAt_putBytes_beyond (bs : List Byte) : ∀ (l : List Host.Cell) (a : Nat) {c : Nat},
    a + bs.length ≤ c → cellAt (putBytes l a bs) c = cellAt l c := by
  induction bs with
  | nil => intro l a c _; rfl
  | cons b bs ih =>
    intro l a c h
    simp only [List.length_cons] at h
    show cellAt (putBytes (putByte l a b) (a + 1) bs) c = _
    rw [ih _ _ (by omega), cellAt_putByte_other _ _ (by omega)]

/-- Each byte put is held at its own address. -/
theorem cellAt_putBytes_within (bs : List Byte) : ∀ (l : List Host.Cell) (a i : Nat) (h : i < bs.length),
    cellAt (putBytes l a bs) (a + i) = bs[i] := by
  induction bs with
  | nil => intro l a i h; simp at h
  | cons b bs ih =>
    intro l a i h
    show cellAt (putBytes (putByte l a b) (a + 1) bs) (a + i) = _
    cases i with
    | zero => rw [cellAt_putBytes_below _ _ _ (by omega)]; exact cellAt_putByte_self _ _ _
    | succ i =>
      have := ih (putByte l a b) (a + 1) i (by simpa using h)
      simpa [Nat.add_assoc, Nat.add_comm 1 i] using this

/-- A programmed place is settled. -/
theorem markAt_programPlace_self (f : Flash) (place : Nat) (l : List Byte) :
    markAt (programPlace f place l).unsettled place = none := by
  have := find_filter_ne place f.unsettled
  simp only [markAt, programPlace, this, Option.map_none]

/-- A program leaves the marks of other places alone. -/
theorem markAt_programPlace_other (f : Flash) {place q : Nat} (l : List Byte) (h : q ≠ place) :
    markAt (programPlace f place l).unsettled q = markAt f.unsettled q := by
  simp only [markAt, programPlace]
  rw [find_filter_keep q _ f.unsettled (fun x hx => by simpa [hx] using h)]

/-- A programmed byte reads as it was programmed (R162). -/
theorem readByte_programPlace (f : Flash) (place : Nat) (l : List Byte) (hl : l.length = 64) (i : Nat)
    (hi : i < 64) : readByte (programPlace f place l) (64 * place + i) = l[i]'(by omega) := by
  have hp : (64 * place + i) / 64 = place := by omega
  unfold readByte
  rw [hp, markAt_programPlace_self]
  have ht : l.take 64 = l := List.take_of_length_le (by omega)
  simp only [programPlace, ht]
  exact cellAt_putBytes_within l f.cells (64 * place) i (by omega)

/-- A program leaves every byte outside its place alone (R162). -/
theorem readByte_programPlace_other (f : Flash) (place : Nat) (l : List Byte) {a : Nat}
    (h : a / 64 ≠ place) : readByte (programPlace f place l) a = readByte f a := by
  unfold readByte
  rw [markAt_programPlace_other f l h]
  cases markAt f.unsettled (a / 64) with
  | some m => rfl
  | none =>
    simp only [programPlace]
    rcases Nat.lt_or_ge a (64 * place) with h1 | h1
    · exact cellAt_putBytes_below _ _ _ h1
    · refine cellAt_putBytes_beyond _ _ _ ?_
      have : (l.take 64).length ≤ 64 := by simp
      omega

/-- A byte of an erased sector reads as 255 (11.1). -/
theorem readByte_eraseSector (f : Flash) (sector : Nat) {a : Nat} (h : a / 4096 = sector) :
    readByte (eraseSector f sector) a = 255 := by
  have h64 : a / 64 / 64 = sector := by rw [Nat.div_div_eq_div_mul]; exact h
  have h1 : markAt (eraseSector f sector).unsettled (a / 64) = none := by
    simp only [markAt, eraseSector, Option.map_eq_none_iff, List.find?_eq_none]
    intro x hx
    have := (List.mem_filter.mp hx).2
    simp only [bne_iff_ne, ne_eq] at this
    simp only [beq_iff_eq]
    intro e
    exact this (e ▸ h64)
  have h2 : (eraseSector f sector).cells.find? (·.1 == a) = none := by
    simp only [eraseSector, List.find?_eq_none]
    intro x hx
    have := (List.mem_filter.mp hx).2
    simp only [bne_iff_ne, ne_eq] at this
    simp only [beq_iff_eq]
    intro e
    exact this (e ▸ h)
  unfold readByte
  rw [h1]
  simp only [cellAt, h2]
  rfl

/-- An erase leaves every byte outside its sector alone. -/
theorem readByte_eraseSector_other (f : Flash) (sector : Nat) {a : Nat} (h : a / 4096 ≠ sector) :
    readByte (eraseSector f sector) a = readByte f a := by
  have h64 : a / 64 / 64 ≠ sector := by rw [Nat.div_div_eq_div_mul]; exact h
  have h1 : markAt (eraseSector f sector).unsettled (a / 64) = markAt f.unsettled (a / 64) := by
    simp only [markAt, eraseSector]
    rw [find_filter_keep (a / 64) _ f.unsettled (fun x hx => by simpa [hx] using h64)]
  have h2 : cellAt (eraseSector f sector).cells a = cellAt f.cells a := by
    simp only [cellAt, eraseSector]
    rw [find_filter_keep a _ f.cells (fun x hx => by simpa [hx] using h)]
  unfold readByte
  rw [h1, h2]

end Sys2Proof.Machine
end

