-- ==== Sys2Proof/Laws/Only.lean ====
section
/-! SUPPORT. What a change of the state leaves alone.  `Within l s t` says that from `s` to `t` only the
parts of `l` change, that the bridge moves by offers of own frames alone, that the hub mode stays, and
that a FAULTSTOP request arises in RUN alone.  Every operation of the controllers gets one such lemma,
and the lemmas compose by `Within.step`. -/

namespace Sys2Proof.Machine

-- One theorem at a time: the package as one text then needs few threads.
set_option Elab.async false

/-! ### `Only` -/

theorem Only.refl (l : List Part) (s : State) : Only l s s := by
  intro p _; cases p <;> simp [Part.same]

/-- Agreement in a part passes along. -/
theorem Part.same_trans {p : Part} {s t u : State} (h : p.same s t) (k : p.same t u) : p.same s u := by
  cases p <;> simp_all [Part.same]

theorem Only.trans {l : List Part} {s t u : State} (h : Only l s t) (k : Only l t u) : Only l s u :=
  fun p hp => Part.same_trans (h p hp) (k p hp)

theorem Only.mono {l m : List Part} {s t : State} (h : Only l s t) (hl : ∀ p ∈ l, p ∈ m) : Only m s t :=
  fun p hp => h p fun hq => hp (hl p hq)

/-! ### Offers of own frames -/

theorem OwnOffers.trans {a b c : Bridge} (h : OwnOffers a b) (k : OwnOffers b c) : OwnOffers a c := by
  induction k with
  | refl => exact h
  | offer f _ ih => exact .offer f ih

/-! ### `Calm` and `Within` -/

/-- Nothing changes but the parts of `l`; the hub mode and the severities stay, and a FAULTSTOP request
arises only where a severity STOP may bring one. -/
structure Calm (l : List Part) (s t : State) : Prop where
  only : Only l s t
  mode : t.mgmt.mode = s.mgmt.mode
  severities : Part.same s t .severities
  stop : CannotStop s → t.mgmt.stopAsked = s.mgmt.stopAsked

/-- What an operation of a controller does at most: calm, and the bridge moves by offers of own frames
alone. -/
structure Within (l : List Part) (s t : State) : Prop extends Calm l s t where
  offers : OwnOffers s.bridge t.bridge

/-- Where the hub mode and the severities stay, so does the impossibility of a FAULTSTOP request. -/
theorem CannotStop.keep {s t : State} (hm : t.mgmt.mode = s.mgmt.mode) (hs : Part.same s t .severities)
    (h : CannotStop s) : CannotStop t := by
  rcases h with h | h
  · exact .inl (by rw [hm]; exact h)
  · refine .inr fun k => ?_
    have e : (t.log.entries.map (·.severity))[condNum k] = (s.log.entries.map (·.severity))[condNum k] := by
      rw [hs]
    have : (condEntry t.log k).severity = (condEntry s.log k).severity := by
      simpa [condEntry] using e
    rw [this]
    exact h k

theorem Calm.refl {l : List Part} {s : State} : Calm l s s := ⟨Only.refl l s, rfl, rfl, fun _ => rfl⟩

theorem Calm.trans {l : List Part} {s t u : State} (h : Calm l s t) (k : Calm l t u) : Calm l s u :=
  ⟨h.only.trans k.only, k.mode.trans h.mode, Part.same_trans h.severities k.severities, fun hr =>
    (k.stop (hr.keep h.mode h.severities)).trans (h.stop hr)⟩

theorem Calm.mono {l m : List Part} {s t : State} (h : Calm l s t) (hl : ∀ p ∈ l, p ∈ m) : Calm m s t :=
  ⟨h.only.mono hl, h.mode, h.severities, h.stop⟩

/-- One more calm operation. -/
theorem Calm.step {l m : List Part} {s t u : State} (h : Calm l s t) (k : Calm m t u)
    (hm : ∀ p ∈ m, p ∈ l := by decide) : Calm l s u := h.trans (k.mono hm)

/-- A calm operation keeps a quiet state quiet. -/
theorem Quiet.keep {l : List Part} {s t : State} (h : Quiet s) (k : Calm l s t) : Quiet t :=
  ⟨(k.stop h.2).trans h.1, h.2.keep k.mode k.severities⟩

theorem Within.refl {l : List Part} {s : State} : Within l s s := ⟨.refl, .refl _⟩

theorem Within.trans {l : List Part} {s t u : State} (h : Within l s t) (k : Within l t u) :
    Within l s u := ⟨h.toCalm.trans k.toCalm, h.offers.trans k.offers⟩

theorem Within.mono {l m : List Part} {s t : State} (h : Within l s t) (hl : ∀ p ∈ l, p ∈ m) :
    Within m s t := ⟨h.toCalm.mono hl, h.offers⟩

/-- One more operation. -/
theorem Within.step {l m : List Part} {s t u : State} (h : Within l s t) (k : Within m t u)
    (hm : ∀ p ∈ m, p ∈ l := by decide) : Within l s u := h.trans (k.mono hm)

/-- One more operation, chosen for each item of a list. -/
theorem Within.foldl {α : Type} {l : List Part} {f : State → α → State} (xs : List α)
    (hf : ∀ t x, Within l t (f t x)) (s : State) : Within l s (xs.foldl f s) := by
  induction xs generalizing s with
  | nil => exact .refl
  | cons x xs ih => exact (hf s x).trans (ih (f s x))

/-- An operation repeated. -/
theorem Within.repeat {l : List Part} {f : State → State} (hf : ∀ t, Within l t (f t)) (n : Nat)
    (s : State) : Within l s (Nat.repeat f n s) := by
  induction n with
  | zero => exact .refl
  | succ n ih => exact ih.trans (hf _)

/-! ### One block changed -/

/-- What is left of a claim that a block changes within some parts. -/
theorem only_of {l : List Part} {s t u : State} (h : Within l s t) (ho : Only l t u)
    (hb : u.bridge = t.bridge) (hm : u.mgmt = t.mgmt) (hs : Part.same t u .severities := by rfl) :
    Within l s u :=
  h.trans ⟨⟨ho, by rw [hm], hs, fun _ => by rw [hm]⟩, hb ▸ .refl _⟩

@[simp] theorem map_upd {α β : Type} {n : Nat} (v : Vector α n) (i : Fin n) (f : α → α) (g : α → β)
    (h : ∀ x, g (f x) = g x) : (upd v i f).map g = v.map g := by
  apply Vector.ext
  intro j hj
  by_cases hij : i.val = j <;> simp [upd, hij, h]

@[simp] theorem tab_get {α : Type} {n : Nat} (f : Fin n → α) (i : Nat) (h : i < n) :
    (tab f)[i] = f ⟨i, h⟩ := by
  simp [tab]

/-- A map over a table built entry by entry. -/
theorem map_tab {α β : Type} {n : Nat} (v : Vector α n) (f : Fin n → α) (g : α → β)
    (h : ∀ i, g (f i) = g v[i]) : (tab f).map g = v.map g := by
  apply Vector.ext
  intro j hj
  simpa using h ⟨j, hj⟩

theorem put_intake {l : List Part} {s t : State} {x : Intake} (h : Within l s t)
    (h_intakeTable : Part.intakeTable ∈ l ∨ Part.same t { t with intake := x } .intakeTable := by
      first | exact Or.inl (by decide) | (right; simp [Part.same]; done)
            | (right; simp +zetaDelta [Part.same]; done))
    (h_slots : Part.slots ∈ l ∨ Part.same t { t with intake := x } .slots := by
      first | exact Or.inl (by decide) | (right; simp [Part.same]; done)
            | (right; simp +zetaDelta [Part.same]; done))
    : Within l s { t with intake := x } := by
  refine only_of h ?_ rfl rfl
  intro p hp
  cases p <;> first
    | exact h_intakeTable.resolve_left hp
    | exact h_slots.resolve_left hp
    | simp [Part.same]

theorem put_travel {l : List Part} {s t : State} {x : Travel} (h : Within l s t)
    (h_travelParams : Part.travelParams ∈ l ∨ Part.same t { t with travel := x } .travelParams := by
      first | exact Or.inl (by decide) | (right; simp [Part.same]; done)
            | (right; simp +zetaDelta [Part.same]; done))
    (h_position : Part.position ∈ l ∨ Part.same t { t with travel := x } .position := by
      first | exact Or.inl (by decide) | (right; simp [Part.same]; done)
            | (right; simp +zetaDelta [Part.same]; done))
    (h_motion : Part.motion ∈ l ∨ Part.same t { t with travel := x } .motion := by
      first | exact Or.inl (by decide) | (right; simp [Part.same]; done)
            | (right; simp +zetaDelta [Part.same]; done))
    (h_widths : Part.widths ∈ l ∨ Part.same t { t with travel := x } .widths := by
      first | exact Or.inl (by decide) | (right; simp [Part.same]; done)
            | (right; simp +zetaDelta [Part.same]; done))
    : Within l s { t with travel := x } := by
  refine only_of h ?_ rfl rfl
  intro p hp
  cases p <;> first
    | exact h_travelParams.resolve_left hp
    | exact h_position.resolve_left hp
    | exact h_motion.resolve_left hp
    | exact h_widths.resolve_left hp
    | simp [Part.same]

theorem put_rmu {l : List Part} {s t : State} {x : Rmu} (h : Within l s t)
    (h_refEntry : Part.refEntry ∈ l ∨ Part.same t { t with rmu := x } .refEntry := by
      first | exact Or.inl (by decide) | (right; simp [Part.same]; done)
            | (right; simp +zetaDelta [Part.same]; done))
    (h_sensorTable : Part.sensorTable ∈ l ∨ Part.same t { t with rmu := x } .sensorTable := by
      first | exact Or.inl (by decide) | (right; simp [Part.same]; done)
            | (right; simp +zetaDelta [Part.same]; done))
    (h_sweepList : Part.sweepList ∈ l ∨ Part.same t { t with rmu := x } .sweepList := by
      first | exact Or.inl (by decide) | (right; simp [Part.same]; done)
            | (right; simp +zetaDelta [Part.same]; done))
    (h_lineStates : Part.lineStates ∈ l ∨ Part.same t { t with rmu := x } .lineStates := by
      first | exact Or.inl (by decide) | (right; simp [Part.same]; done)
            | (right; simp +zetaDelta [Part.same]; done))
    (h_counting : Part.counting ∈ l ∨ Part.same t { t with rmu := x } .counting := by
      first | exact Or.inl (by decide) | (right; simp [Part.same]; done)
            | (right; simp +zetaDelta [Part.same]; done))
    : Within l s { t with rmu := x } := by
  refine only_of h ?_ rfl rfl
  intro p hp
  cases p <;> first
    | exact h_refEntry.resolve_left hp
    | exact h_sensorTable.resolve_left hp
    | exact h_sweepList.resolve_left hp
    | exact h_lineStates.resolve_left hp
    | exact h_counting.resolve_left hp
    | simp [Part.same]

theorem put_heat {l : List Part} {s t : State} {x : Heat} (h : Within l s t)
    (h_zoneTable : Part.zoneTable ∈ l ∨ Part.same t { t with heat := x } .zoneTable := by
      first | exact Or.inl (by decide) | (right; simp [Part.same]; done)
            | (right; simp +zetaDelta [Part.same]; done))
    (h_zoneStates : Part.zoneStates ∈ l ∨ Part.same t { t with heat := x } .zoneStates := by
      first | exact Or.inl (by decide) | (right; simp [Part.same]; done)
            | (right; simp +zetaDelta [Part.same]; done))
    (h_heatMaster : Part.heatMaster ∈ l ∨ Part.same t { t with heat := x } .heatMaster := by
      first | exact Or.inl (by decide) | (right; simp [Part.same]; done)
            | (right; simp +zetaDelta [Part.same]; done))
    (h_heatRights : Part.heatRights ∈ l ∨ Part.same t { t with heat := x } .heatRights := by
      first | exact Or.inl (by decide) | (right; simp [Part.same]; done)
            | (right; simp +zetaDelta [Part.same]; done))
    (h_heatTimer : Part.heatTimer ∈ l ∨ Part.same t { t with heat := x } .heatTimer := by
      first | exact Or.inl (by decide) | (right; simp [Part.same]; done)
            | (right; simp +zetaDelta [Part.same]; done))
    : Within l s { t with heat := x } := by
  refine only_of h ?_ rfl rfl
  intro p hp
  cases p <;> first
    | exact h_zoneTable.resolve_left hp
    | exact h_zoneStates.resolve_left hp
    | exact h_heatMaster.resolve_left hp
    | exact h_heatRights.resolve_left hp
    | exact h_heatTimer.resolve_left hp
    | simp [Part.same]

theorem put_power {l : List Part} {s t : State} {x : Power} (h : Within l s t)
    (h_budget : Part.budget ∈ l ∨ Part.same t { t with power := x } .budget := by
      first | exact Or.inl (by decide) | (right; simp [Part.same]; done)
            | (right; simp +zetaDelta [Part.same]; done))
    (h_sag : Part.sag ∈ l ∨ Part.same t { t with power := x } .sag := by
      first | exact Or.inl (by decide) | (right; simp [Part.same]; done)
            | (right; simp +zetaDelta [Part.same]; done))
    (h_allocation : Part.allocation ∈ l ∨ Part.same t { t with power := x } .allocation := by
      first | exact Or.inl (by decide) | (right; simp [Part.same]; done)
            | (right; simp +zetaDelta [Part.same]; done))
    : Within l s { t with power := x } := by
  refine only_of h ?_ rfl rfl
  intro p hp
  cases p <;> first
    | exact h_budget.resolve_left hp
    | exact h_sag.resolve_left hp
    | exact h_allocation.resolve_left hp
    | simp [Part.same]

theorem put_voter {l : List Part} {s t : State} {x : Voter} (h : Within l s t)
    (h_voteTables : Part.voteTables ∈ l ∨ Part.same t { t with voter := x } .voteTables := by
      first | exact Or.inl (by decide) | (right; simp [Part.same]; done)
            | (right; simp +zetaDelta [Part.same]; done))
    (h_voteInputs : Part.voteInputs ∈ l ∨ Part.same t { t with voter := x } .voteInputs := by
      first | exact Or.inl (by decide) | (right; simp [Part.same]; done)
            | (right; simp +zetaDelta [Part.same]; done))
    (h_requested : Part.requested ∈ l ∨ Part.same t { t with voter := x } .requested := by
      first | exact Or.inl (by decide) | (right; simp [Part.same]; done)
            | (right; simp +zetaDelta [Part.same]; done))
    : Within l s { t with voter := x } := by
  refine only_of h ?_ rfl rfl
  intro p hp
  cases p <;> first
    | exact h_voteTables.resolve_left hp
    | exact h_voteInputs.resolve_left hp
    | exact h_requested.resolve_left hp
    | simp [Part.same]

theorem put_level {l : List Part} {s t : State} {x : Level} (h : Within l s t)
    (h_levelTable : Part.levelTable ∈ l ∨ Part.same t { t with level := x } .levelTable := by
      first | exact Or.inl (by decide) | (right; simp [Part.same]; done)
            | (right; simp +zetaDelta [Part.same]; done))
    (h_levelSides : Part.levelSides ∈ l ∨ Part.same t { t with level := x } .levelSides := by
      first | exact Or.inl (by decide) | (right; simp [Part.same]; done)
            | (right; simp +zetaDelta [Part.same]; done))
    (h_levelMotion : Part.levelMotion ∈ l ∨ Part.same t { t with level := x } .levelMotion := by
      first | exact Or.inl (by decide) | (right; simp [Part.same]; done)
            | (right; simp +zetaDelta [Part.same]; done))
    (h_profile : Part.profile ∈ l ∨ Part.same t { t with level := x } .profile := by
      first | exact Or.inl (by decide) | (right; simp [Part.same]; done)
            | (right; simp +zetaDelta [Part.same]; done))
    (h_protection : Part.protection ∈ l ∨ Part.same t { t with level := x } .protection := by
      first | exact Or.inl (by decide) | (right; simp [Part.same]; done)
            | (right; simp +zetaDelta [Part.same]; done))
    : Within l s { t with level := x } := by
  refine only_of h ?_ rfl rfl
  intro p hp
  cases p <;> first
    | exact h_levelTable.resolve_left hp
    | exact h_levelSides.resolve_left hp
    | exact h_levelMotion.resolve_left hp
    | exact h_profile.resolve_left hp
    | exact h_protection.resolve_left hp
    | simp [Part.same]

theorem put_feed {l : List Part} {s t : State} {x : Feed} (h : Within l s t)
    (h_feedTable : Part.feedTable ∈ l ∨ Part.same t { t with feed := x } .feedTable := by
      first | exact Or.inl (by decide) | (right; simp [Part.same]; done)
            | (right; simp +zetaDelta [Part.same]; done))
    (h_feedSides : Part.feedSides ∈ l ∨ Part.same t { t with feed := x } .feedSides := by
      first | exact Or.inl (by decide) | (right; simp [Part.same]; done)
            | (right; simp +zetaDelta [Part.same]; done))
    (h_feedCopies : Part.feedCopies ∈ l ∨ Part.same t { t with feed := x } .feedCopies := by
      first | exact Or.inl (by decide) | (right; simp [Part.same]; done)
            | (right; simp +zetaDelta [Part.same]; done))
    : Within l s { t with feed := x } := by
  refine only_of h ?_ rfl rfl
  intro p hp
  cases p <;> first
    | exact h_feedTable.resolve_left hp
    | exact h_feedSides.resolve_left hp
    | exact h_feedCopies.resolve_left hp
    | simp [Part.same]

theorem put_disp {l : List Part} {s t : State} {x : Dispatcher} (h : Within l s t)
    (h_targetRows : Part.targetRows ∈ l ∨ Part.same t { t with disp := x } .targetRows := by
      first | exact Or.inl (by decide) | (right; simp [Part.same]; done)
            | (right; simp +zetaDelta [Part.same]; done))
    (h_targetStates : Part.targetStates ∈ l ∨ Part.same t { t with disp := x } .targetStates := by
      first | exact Or.inl (by decide) | (right; simp [Part.same]; done)
            | (right; simp +zetaDelta [Part.same]; done))
    (h_dispMode : Part.dispMode ∈ l ∨ Part.same t { t with disp := x } .dispMode := by
      first | exact Or.inl (by decide) | (right; simp [Part.same]; done)
            | (right; simp +zetaDelta [Part.same]; done))
    : Within l s { t with disp := x } := by
  refine only_of h ?_ rfl rfl
  intro p hp
  cases p <;> first
    | exact h_targetRows.resolve_left hp
    | exact h_targetStates.resolve_left hp
    | exact h_dispMode.resolve_left hp
    | simp [Part.same]

theorem put_map {l : List Part} {s t : State} {x : MatMap} (h : Within l s t)
    (h_mapEntry : Part.mapEntry ∈ l ∨ Part.same t { t with map := x } .mapEntry := by
      first | exact Or.inl (by decide) | (right; simp [Part.same]; done)
            | (right; simp +zetaDelta [Part.same]; done))
    (h_scan : Part.scan ∈ l ∨ Part.same t { t with map := x } .scan := by
      first | exact Or.inl (by decide) | (right; simp [Part.same]; done)
            | (right; simp +zetaDelta [Part.same]; done))
    (h_row : Part.row ∈ l ∨ Part.same t { t with map := x } .row := by
      first | exact Or.inl (by decide) | (right; simp [Part.same]; done)
            | (right; simp +zetaDelta [Part.same]; done))
    (h_records : Part.records ∈ l ∨ Part.same t { t with map := x } .records := by
      first | exact Or.inl (by decide) | (right; simp [Part.same]; done)
            | (right; simp +zetaDelta [Part.same]; done))
    (h_mapCopies : Part.mapCopies ∈ l ∨ Part.same t { t with map := x } .mapCopies := by
      first | exact Or.inl (by decide) | (right; simp [Part.same]; done)
            | (right; simp +zetaDelta [Part.same]; done))
    : Within l s { t with map := x } := by
  refine only_of h ?_ rfl rfl
  intro p hp
  cases p <;> first
    | exact h_mapEntry.resolve_left hp
    | exact h_scan.resolve_left hp
    | exact h_row.resolve_left hp
    | exact h_records.resolve_left hp
    | exact h_mapCopies.resolve_left hp
    | simp [Part.same]

theorem put_archive {l : List Part} {s t : State} {x : Archive} (h : Within l s t)
    (h_archiveEntry : Part.archiveEntry ∈ l ∨ Part.same t { t with archive := x } .archiveEntry := by
      first | exact Or.inl (by decide) | (right; simp [Part.same]; done)
            | (right; simp +zetaDelta [Part.same]; done))
    (h_archive : Part.archive ∈ l ∨ Part.same t { t with archive := x } .archive := by
      first | exact Or.inl (by decide) | (right; simp [Part.same]; done)
            | (right; simp +zetaDelta [Part.same]; done))
    : Within l s { t with archive := x } := by
  refine only_of h ?_ rfl rfl
  intro p hp
  cases p <;> first
    | exact h_archiveEntry.resolve_left hp
    | exact h_archive.resolve_left hp
    | simp [Part.same]

theorem put_flash {l : List Part} {s t : State} {x : Flash} (h : Within l s t)
    (h_flash : Part.flash ∈ l ∨ Part.same t { t with flash := x } .flash := by
      first | exact Or.inl (by decide) | (right; simp [Part.same]; done)
            | (right; simp +zetaDelta [Part.same]; done))
    : Within l s { t with flash := x } := by
  refine only_of h ?_ rfl rfl
  intro p hp
  cases p <;> first
    | exact h_flash.resolve_left hp
    | simp [Part.same]

theorem put_log {l : List Part} {s t : State} {x : CondLog} (h : Within l s t)
    (h_severities : Part.same t { t with log := x } .severities := by
      first | exact rfl | (simp [Part.same]; done))
    (h_conditions : Part.conditions ∈ l ∨ Part.same t { t with log := x } .conditions := by
      first | exact Or.inl (by decide) | (right; simp [Part.same]; done)
            | (right; simp +zetaDelta [Part.same]; done))
    (h_notices : Part.notices ∈ l ∨ Part.same t { t with log := x } .notices := by
      first | exact Or.inl (by decide) | (right; simp [Part.same]; done)
            | (right; simp +zetaDelta [Part.same]; done))
    : Within l s { t with log := x } := by
  refine only_of h ?_ rfl rfl h_severities
  intro p hp
  cases p <;> first
    | exact h_severities
    | exact h_conditions.resolve_left hp
    | exact h_notices.resolve_left hp
    | simp [Part.same]

theorem put_jobKey {l : List Part} {s t : State} {x : Bool} (h : Within l s t)
    (h_jobKey : Part.jobKey ∈ l ∨ Part.same t { t with jobKey := x } .jobKey := by
      first | exact Or.inl (by decide) | (right; simp [Part.same]; done)
            | (right; simp +zetaDelta [Part.same]; done))
    : Within l s { t with jobKey := x } := by
  refine only_of h ?_ rfl rfl
  intro p hp
  cases p <;> first
    | exact h_jobKey.resolve_left hp
    | simp [Part.same]

theorem put_samples {l : List Part} {s t : State} {x : Nat} (h : Within l s t)
    (h_samples : Part.samples ∈ l ∨ Part.same t { t with samples := x } .samples := by
      first | exact Or.inl (by decide) | (right; simp [Part.same]; done)
            | (right; simp +zetaDelta [Part.same]; done))
    : Within l s { t with samples := x } := by
  refine only_of h ?_ rfl rfl
  intro p hp
  cases p <;> first
    | exact h_samples.resolve_left hp
    | simp [Part.same]

theorem put_marks {l : List Part} {s t : State} {x : Nat} (h : Within l s t)
    (h_marks : Part.marks ∈ l ∨ Part.same t { t with marks := x } .marks := by
      first | exact Or.inl (by decide) | (right; simp [Part.same]; done)
            | (right; simp +zetaDelta [Part.same]; done))
    : Within l s { t with marks := x } := by
  refine only_of h ?_ rfl rfl
  intro p hp
  cases p <;> first
    | exact h_marks.resolve_left hp
    | simp [Part.same]

/-- An own frame is offered. -/
theorem put_offer {l : List Part} {s t : State} {f : Frame} (h : Within l s t)
    (hl : Part.ports ∈ l := by decide) : Within l s { t with bridge := (offerOwn t.bridge f).1 } := by
  refine h.trans ⟨⟨?_, rfl, rfl, fun _ => rfl⟩, .offer f (.refl _)⟩
  intro p hp
  cases p <;> first
    | exact absurd hl hp
    | (simp [Part.same, offerOwn]; done)
    | (simp only [Part.same, offerOwn]; split
       · cases portFor t.bridge f.dst <;> simp [modPort]
       · split
         · cases portFor t.bridge f.dst <;> simp [modPort]
         · simp)

end Sys2Proof.Machine
end

