-- ==== Sys2Proof/Laws/FramesA.lean ====
section
/-! SUPPORT. What the operations of the log, the dispatcher, the voter and the power budget change. -/

namespace Sys2Proof.Machine

-- One theorem at a time: the package as one text then needs few threads.
set_option Elab.async false

/-! ### Rows of the target table under a change of a target -/

@[simp] theorem modTarget_hubMode (d : Dispatcher) (t : Fin 7) (f : Target → Target) :
    (modTarget d t f).hubMode = d.hubMode := rfl

@[simp] theorem modVars_row (f : TargetVars → TargetVars) (x : Target) : (modVars f x).row = x.row := rfl

@[simp] theorem markSent_row (x : Target) : (markSent x).row = x.row := rfl

@[simp] theorem markWaiting_row (p : Port) (f : Frame) (x : Target) : (markWaiting p f x).row = x.row := rfl

@[simp] theorem dropCommand_row (x : Target) : (dropCommand x).row = x.row := rfl

@[simp] theorem modTarget_rows (d : Dispatcher) (t : Fin 7) (f : Target → Target)
    (h : ∀ x, (f x).row = x.row) : (modTarget d t f).targets.map (·.row) = d.targets.map (·.row) :=
  map_upd _ _ _ _ h

/-- A target changed where its row stays. -/
theorem put_target {l : List Part} {s u : State} {t : Fin 7} {f : Target → Target} (h : Within l s u)
    (hf : ∀ x, (f x).row = x.row) (hl : Part.targetStates ∈ l := by decide) :
    Within l s { u with disp := modTarget u.disp t f } :=
  put_disp h (h_targetRows := .inr (modTarget_rows _ _ _ hf)) (h_targetStates := .inl hl)
    (h_dispMode := .inr rfl)

/-! ### The log -/

theorem sendNotice_within {k : CondKind} {s : State} : Within [.ports, .notices] s (sendNotice k s) := by
  unfold sendNotice
  dsimp only
  split
  · exact put_log .refl
  · exact put_log (t := { s with bridge := (offerOwn s.bridge _).1 }) (put_offer .refl)

theorem noteOccurrence_within {k : CondKind} {s : State} :
    Within [.conditions, .stopAsked] s (noteOccurrence k s) := by
  refine ⟨⟨?_, rfl, map_upd _ _ _ _ fun _ => rfl, fun h => ?_⟩, .refl _⟩
  rotate_left
  · rcases h with h | h
    · simp [noteOccurrence, h]
    · simp [noteOccurrence, h k]
  intro p hp
  cases p <;> first
    | exact absurd (by decide) hp
    | exact map_upd _ _ _ _ fun _ => rfl
    | simp [noteOccurrence, Part.same]

theorem occur_within {k : CondKind} {s : State} :
    Within logParts s (occur k s) := by
  unfold occur
  try dsimp only
  repeat' with_reducible first
    | exact Within.refl
    | split
    | refine Within.step ?_ sendNotice_within
    | refine Within.step ?_ noteOccurrence_within

theorem endLevel_within {k : CondKind} {s : State} : Within logParts s (endLevel k s) :=
  put_log .refl (h_severities := map_upd _ _ _ _ fun _ => rfl)

theorem setLevelKind_within {k : CondKind} {b : Bool} {s : State} :
    Within logParts s (setLevelKind k b s) := by
  unfold setLevelKind
  try dsimp only
  repeat' with_reducible first
    | exact Within.refl
    | split
    | refine Within.step ?_ occur_within
    | refine Within.step ?_ endLevel_within

theorem occurTimes_within {k : CondKind} {n : Nat} {s : State} : Within logParts s (occurTimes k n s) :=
  Within.repeat (fun _ => occur_within) n s

theorem tellMap_within {f : RowFlag} {b : Bool} {s : State} :
    Within [.row, .mapCopies] s (tellMap f b s) := put_map .refl

/-! ### The dispatcher -/

theorem offerCommand_within {t : Fin 7} {o : Outstanding} {s : State} :
    Within [.ports, .targetStates] s (offerCommand t o s) := by
  unfold offerCommand
  dsimp only
  refine put_target (u := { s with bridge := (offerOwn s.bridge _).1 }) (put_offer .refl) fun x => ?_
  split <;> rfl

theorem sendFresh_within {t : Fin 7} {v : Int} {s : State} :
    Within [.ports, .targetStates] s (sendFresh t v s) := by
  unfold sendFresh
  refine Within.step ?_ offerCommand_within
  exact put_target .refl fun x => rfl

theorem submit_within {t : Fin 7} {v : Int} {s : State} :
    Within [.ports, .targetStates] s (submit t v s) := by
  unfold submit
  try dsimp only
  repeat' with_reducible first
    | exact Within.refl
    | split
    | refine Within.step ?_ sendFresh_within
    | exact put_target .refl fun x => rfl

theorem evalTargetLost_within {s : State} : Within logParts s (evalTargetLost s) := setLevelKind_within

theorem sendPending_within {t : Fin 7} {s : State} :
    Within [.ports, .targetStates] s (sendPending t s) := by
  unfold sendPending
  split
  · exact .refl
  · refine Within.step ?_ sendFresh_within
    exact put_target .refl fun x => rfl

theorem endByAck_within {t : Fin 7} {b : Bool} {s : State} :
    Within commandParts s (endByAck t b s) := by
  unfold endByAck
  try dsimp only
  repeat' with_reducible first
    | exact Within.refl
    | split
    | refine Within.step ?_ sendPending_within
    | refine Within.step ?_ evalTargetLost_within
    | refine Within.step ?_ occur_within
    | exact put_target .refl fun x => rfl

theorem ackDelivered_within {f : Frame} {s : State} :
    Within commandParts s (ackDelivered f s) := by
  unfold ackDelivered
  try dsimp only
  repeat' with_reducible first
    | exact Within.refl
    | split
    | refine Within.step ?_ endByAck_within
    | refine Within.step ?_ evalTargetLost_within
    | exact put_target .refl fun x => rfl

theorem loseCommand_within {t : Fin 7} {s : State} :
    Within commandParts s (loseCommand t s) := by
  unfold loseCommand
  try dsimp only
  repeat' with_reducible first
    | exact Within.refl
    | refine Within.step ?_ sendPending_within
    | refine Within.step ?_ evalTargetLost_within
    | exact put_target .refl fun x => rfl

theorem resendCommand_within {t : Fin 7} {o : Outstanding} {s : State} :
    Within [.ports, .targetStates] s (resendCommand t o s) := by
  unfold resendCommand
  try dsimp only
  repeat' with_reducible first
    | exact Within.refl
    | refine Within.step ?_ offerCommand_within
    | exact put_target .refl fun x => rfl

theorem neutralizeTarget_within {t : Fin 7} {s : State} :
    Within [.ports, .targetStates] s (neutralizeTarget s t) := by
  unfold neutralizeTarget
  try dsimp only
  repeat' with_reducible first
    | exact Within.refl
    | split
    | refine Within.step ?_ sendFresh_within
    | exact put_target .refl fun x => rfl

theorem dispatcherMode_within {m : HubMode} {s : State} :
    Within [.ports, .targetStates, .dispMode] s (dispatcherMode m s) := by
  unfold dispatcherMode
  dsimp only
  split
  · refine Within.step ?_ (Within.foldl _ (fun _ _ => neutralizeTarget_within) _)
    exact put_disp .refl
  · exact put_disp .refl

/-! ### The voter -/

theorem withTimer_within {n : Timer} {s : State} : Within [.requested] s (withTimer n s) := put_voter .refl

theorem requestLevel_within {n : Nat} {s : State} :
    Within [.requested, .targetStates, .ports] s (requestLevel n s) := by
  unfold requestLevel
  refine Within.step ?_ submit_within
  exact put_voter .refl

theorem recomputeVotes_within {s : State} :
    Within [.requested, .targetStates, .ports] s (recomputeVotes s) := by
  unfold recomputeVotes
  try dsimp only
  repeat' with_reducible first
    | exact Within.refl
    | split
    | refine Within.step ?_ requestLevel_within
    | refine Within.step ?_ withTimer_within

/-- A report that leaves the vote tables alone. -/
theorem reportVoter_within {f : Voter → Voter} {s : State}
    (hf : Part.same s { s with voter := f s.voter } .voteTables := by
      simp only [Part.same, and_self]) : Within voteParts s (reportVoter f s) := by
  unfold reportVoter
  refine Within.step ?_ recomputeVotes_within
  exact put_voter .refl (h_voteTables := .inr hf)

theorem voterMode_within {o n : HubMode} {s : State} :
    Within [.requested, .targetStates, .ports] s (voterMode o n s) := by
  unfold voterMode
  try dsimp only
  repeat' with_reducible first
    | exact Within.refl
    | split
    | refine Within.step ?_ requestLevel_within
    | refine Within.step ?_ withTimer_within

/-! ### The power budget -/

theorem evalHeatShed_within {s : State} :
    Within (.row :: .mapCopies :: logParts) s (evalHeatShed s) := by
  unfold evalHeatShed
  try dsimp only
  repeat' with_reducible first
    | exact Within.refl
    | split
    | refine Within.step ?_ tellMap_within
    | refine Within.step ?_ setLevelKind_within

theorem receiveAlloc_entries {m : HubMode} {p : Nat} {a b : Vector AllocRec 16} {h : Heat} :
    (receiveAlloc m p a b h).zones.map (·.entry) = h.zones.map (·.entry) := by
  refine map_tab _ _ _ fun i => ?_
  split <;> rfl

theorem allocate_within {s : State} : Within allocParts s (allocate s) := by
  unfold allocate
  dsimp only
  refine Within.step (Within.step ?_ evalHeatShed_within) reportVoter_within
  exact put_power (t := { s with heat := _ }) (put_heat .refl (h_zoneTable := .inr receiveAlloc_entries))

theorem demandReport_within {z : Fin 16} {x : Zone} {s : State} :
    Within allocParts s (demandReport z x s) := by
  unfold demandReport
  refine Within.step ?_ allocate_within
  exact put_power .refl

theorem withSag_within {g : SagState} {a b : Timer} {s : State} : Within [.sag] s (withSag g a b s) :=
  put_power .refl

theorem sagChanged_within {b : Bool} {s : State} : Within allocParts s (sagChanged b s) := by
  unfold sagChanged
  dsimp only
  refine Within.step ?_ tellMap_within
  refine Within.step ?_ reportVoter_within
  refine Within.step ?_ setLevelKind_within
  exact Within.step .refl allocate_within

theorem supplyFall_within {s : State} :
    Within [.sag] s (supplyFall s) := by
  unfold supplyFall
  try dsimp only
  repeat' with_reducible first
    | exact Within.refl
    | split
    | refine Within.step ?_ withSag_within

theorem supplyRise_within {s : State} :
    Within [.sag] s (supplyRise s) := by
  unfold supplyRise
  try dsimp only
  repeat' with_reducible first
    | exact Within.refl
    | split
    | refine Within.step ?_ withSag_within

theorem thresholdChanged_within {s : State} :
    Within (.sag :: .samples :: allocParts) s (thresholdChanged s) := by
  unfold thresholdChanged
  dsimp only
  split
  · split
    · refine Within.step ?_ sagChanged_within
      refine Within.step ?_ withSag_within
      exact put_power .refl
    · refine Within.step ?_ withSag_within
      exact put_power .refl
  · have h : Within (.sag :: .samples :: allocParts) s
        { s with
          samples := s.samples + 1
          power := { s.power with below := Config.supplyBelow s.samples s.power.entry.select } } :=
      put_power (t := { s with samples := s.samples + 1 }) (put_samples .refl)
    split
    · exact h
    · split
      · exact Within.step h supplyFall_within
      · exact Within.step h supplyRise_within

end Sys2Proof.Machine
end

