-- ==== Sys2Proof/Laws/FramesB.lean ====
section
/-! SUPPORT. What the operations of the heating, levelling and feed controllers change. -/

namespace Sys2Proof.Machine

-- One theorem at a time: the package as one text then needs few threads.
set_option Elab.async false

/-! ### Heating -/

/-- A zone's variables changed. -/
theorem put_zoneVars {l : List Part} {s u : State} {z : Fin 16} {f : ZoneVars → ZoneVars}
    (h : Within l s u) (hl : Part.zoneStates ∈ l := by decide) : Within l s (modZoneVars u z f) :=
  put_heat h (h_zoneTable := .inr (map_upd _ _ _ _ fun _ => rfl)) (h_zoneStates := .inl hl)
    (h_heatMaster := .inr rfl) (h_heatRights := .inr rfl) (h_heatTimer := .inr rfl)

/-- A zone changed where its entry stays. -/
theorem put_zone {l : List Part} {s u : State} {z : Fin 16} {f : Zone → Zone} (h : Within l s u)
    (hf : ∀ x, (f x).entry = x.entry) (hl : Part.zoneStates ∈ l := by decide) :
    Within l s (modZone u z f) :=
  put_heat h (h_zoneTable := .inr (map_upd _ _ _ _ hf)) (h_zoneStates := .inl hl)
    (h_heatMaster := .inr rfl) (h_heatRights := .inr rfl) (h_heatTimer := .inr rfl)

theorem evalZoneKinds_within {s : State} : Within logParts s (evalZoneKinds s) := by
  unfold evalZoneKinds
  dsimp only
  exact Within.step (Within.step .refl setLevelKind_within) setLevelKind_within

theorem evalHeatRights_within {s : State} :
    Within (.heatRights :: voteParts) s (evalHeatRights s) := by
  unfold evalHeatRights
  dsimp only
  split
  · exact .refl
  · refine Within.step ?_ reportVoter_within
    exact put_heat .refl

theorem reviewZone_within {z : Fin 16} {s : State} : Within zoneParts s (reviewZone z s) := by
  unfold reviewZone
  dsimp only
  refine Within.step (Within.step ?_ evalZoneKinds_within) evalHeatRights_within
  split
  · exact put_zoneVars .refl
  · refine Within.step ?_ demandReport_within
    exact put_zoneVars .refl

theorem reviewAll_within {s : State} : Within zoneParts s (reviewAll s) :=
  Within.foldl _ (fun _ _ => reviewZone_within) s

theorem selectOne_within {z : Fin 16} {s : State} : Within [.zoneStates] s (selectOne z s) :=
  put_zoneVars .refl

theorem reselectFrom_within (n : Nat) : ∀ (b : Fin 16) (s : State), Within zoneParts s (reselectFrom n b s) := by
  induction n with
  | zero => exact fun _ _ => .refl
  | succ n ih =>
    intro b s
    refine Within.foldl _ (fun t a => ?_) s
    have h : Within zoneParts t (reviewZone a (selectOne a t)) :=
      Within.step (Within.step .refl selectOne_within) reviewZone_within
    dsimp only
    split
    · exact h
    · exact Within.step h (ih a _)

theorem reselectDependents_within {b : Fin 16} {s : State} :
    Within zoneParts s (reselectDependents b s) := reselectFrom_within 32 b s

theorem reselect_within {z : Fin 16} {s : State} : Within zoneParts s (reselect z s) := by
  unfold reselect
  dsimp only
  split
  · exact Within.step .refl selectOne_within
  · exact Within.step (Within.step .refl selectOne_within) reselectDependents_within

theorem refreshOne_within {z : Fin 16} {t : Int} {c : Bool} {s : State} :
    Within zoneParts s (refreshOne z t c s) := by
  unfold refreshOne
  refine Within.step ?_ reviewZone_within
  exact put_zone .refl fun _ => rfl

theorem passRefresh_within {t : Int} {c : Bool} {s : State} {a : Fin 16} :
    Within zoneParts s (passRefresh t c s a) := by
  unfold passRefresh
  dsimp only
  split
  · exact refreshOne_within
  · exact .refl

theorem refreshZone_within {z : Fin 16} {t : Int} {c : Bool} {s : State} :
    Within zoneParts s (refreshZone z t c s) := by
  unfold refreshZone
  dsimp only
  split
  · exact Within.step refreshOne_within (Within.foldl _ (fun _ _ => passRefresh_within) _)
  · exact refreshOne_within

theorem zoneReport_within {line : Nat} {a : Option (Int × Bool)} {s : State} {z : Fin 16} :
    Within zoneParts s (zoneReport line a s z) := by
  unfold zoneReport
  dsimp only
  split
  · split
    · split
      · exact Within.step reselect_within refreshZone_within
      · exact Within.step reselect_within reviewZone_within
    · exact Within.step reselect_within reviewZone_within
  · exact .refl

theorem lineReport_within {line : Nat} {a : Option (Int × Bool)} {s : State} :
    Within zoneParts s (lineReport line a s) :=
  Within.foldl _ (fun _ _ => zoneReport_within) s

theorem zoneRowClose_within {c : Fin 16 → Nat × Nat} {s : State} {z : Fin 16} :
    Within zoneParts s (zoneRowClose c s z) := by
  unfold zoneRowClose
  dsimp only
  split
  · refine Within.step ?_ reviewZone_within
    exact put_zoneVars .refl
  · exact .refl

theorem rowCloseReport_within {c : Fin 16 → Nat × Nat} {s : State} :
    Within zoneParts s (rowCloseReport c s) :=
  Within.foldl _ (fun _ _ => zoneRowClose_within) s

theorem zoneWritten_within {z : Fin 16} {e : ZoneEntry} {s : State} :
    Within (.zoneTable :: zoneParts) s (zoneWritten z e s) := by
  unfold zoneWritten
  extract_lets old s1 t s2 s3
  have h1 : Within (.zoneTable :: zoneParts) s s1 := put_heat .refl
  have h2 : Within (.zoneTable :: zoneParts) s s2 := by
    unfold s2
    split
    · split
      · exact Within.step (Within.step h1 reselect_within) reselectDependents_within
      · exact Within.step h1 reselect_within
    · exact h1
  have h3 : Within (.zoneTable :: zoneParts) s s3 := Within.step h2 reviewZone_within
  split
  · exact Within.step h3 demandReport_within
  · exact h3

/-! ### Levelling -/

/-- What `modLevel` leaves alone. -/
theorem modLevel_same (l : Level) (d : Side) (f : SideVars → SideVars) :
    (modLevel l d f).left.entry = l.left.entry ∧ (modLevel l d f).right.entry = l.right.entry ∧
      (modLevel l d f).motion = l.motion ∧ (modLevel l d f).profile = l.profile ∧
      (modLevel l d f).protection = l.protection := by
  cases d <;> exact ⟨rfl, rfl, rfl, rfl, rfl⟩

/-- A levelling side's record changed. -/
theorem put_side {l : List Part} {s u : State} {d : Side} {f : SideVars → SideVars}
    (h : Within l s u) (hl : Part.levelSides ∈ l := by decide) : Within l s (modSide d u f) :=
  have k := modLevel_same u.level d f
  put_level h (h_levelTable := .inr ⟨k.1, k.2.1⟩) (h_levelSides := .inl hl)
    (h_levelMotion := .inr k.2.2.1) (h_profile := .inr k.2.2.2.1) (h_protection := .inr k.2.2.2.2)

theorem evalProfileEnd_within {s : State} : Within logParts s (evalProfileEnd s) := setLevelKind_within

theorem evalTarget_within {d : Side} {s : State} : Within levelParts s (evalTarget d s) := by
  unfold evalTarget
  dsimp only
  split
  · refine Within.step ?_ evalProfileEnd_within
    exact put_side .refl
  · refine Within.step ?_ evalProfileEnd_within
    exact put_side .refl

theorem submitValve_within {d : Side} {n : Int} {s : State} : Within levelParts s (submitValve d n s) := by
  unfold submitValve
  refine Within.step ?_ submit_within
  exact put_side .refl

theorem holdReports_within {d : Side} {b : Bool} {s : State} :
    Within levelParts s (holdReports d b s) := by
  unfold holdReports
  dsimp only
  exact Within.step (Within.step .refl tellMap_within) setLevelKind_within

theorem enterState_within {d : Side} {n : LevelState} {s : State} :
    Within levelParts s (enterState d n s) := by
  have h : Within levelParts s (modSide d s fun v =>
      { v with state := n, remembered := if n = .frozen then v.remembered else none }) := put_side .refl
  unfold enterState
  dsimp only
  generalize modSide d s _ = t at h
  repeat' first
    | with_reducible exact h
    | with_reducible exact Within.refl
    | split
    | with_reducible refine Within.step ?_ submitValve_within
    | with_reducible refine Within.step ?_ evalTarget_within
    | with_reducible refine Within.step ?_ holdReports_within

theorem freeze_within {d : Side} {r : Remembered} {s : State} : Within levelParts s (freeze d r s) := by
  unfold freeze
  refine Within.step ?_ enterState_within
  exact put_side .refl

theorem useReading_within {d : Side} {r : Int} {s : State} :
    Within levelParts s (useReading d r s) := by
  unfold useReading
  try dsimp only
  repeat' with_reducible first
    | exact Within.refl
    | split
    | refine Within.step ?_ submitValve_within
    | refine Within.step ?_ evalTarget_within

theorem takeValid_within {d : Side} {r : Int} {s : State} :
    Within levelParts s (takeValid d r s) := by
  unfold takeValid
  try dsimp only
  repeat' with_reducible first
    | exact Within.refl
    | split
    | refine Within.step ?_ useReading_within
    | refine Within.step ?_ enterState_within
    | with_reducible refine put_side ?_

theorem takeInvalid_within {d : Side} {s : State} :
    Within levelParts s (takeInvalid d s) := by
  unfold takeInvalid
  try dsimp only
  repeat' with_reducible first
    | exact Within.refl
    | split
    | refine Within.step ?_ enterState_within
    | with_reducible refine put_side ?_

theorem levelUpdate_within {slot : Nat} {r : Int} {q : Quality} {d : Side} {s : State} :
    Within levelParts s (levelUpdate slot r q s d) := by
  unfold levelUpdate
  try dsimp only
  repeat' with_reducible first
    | exact Within.refl
    | split
    | refine Within.step ?_ takeValid_within
    | refine Within.step ?_ takeInvalid_within

theorem loseConfidence_within {d : Side} {s : State} :
    Within levelParts s (loseConfidence d s) := by
  unfold loseConfidence
  try dsimp only
  repeat' with_reducible first
    | exact Within.refl
    | split
    | refine Within.step ?_ enterState_within
    | with_reducible refine put_side ?_

theorem levelStale_within {slot : Nat} {d : Side} {s : State} :
    Within levelParts s (levelStale slot s d) := by
  unfold levelStale
  try dsimp only
  repeat' with_reducible first
    | exact Within.refl
    | split
    | refine Within.step ?_ loseConfidence_within
    | with_reducible refine put_side ?_

theorem levelLost_within {d : Side} {s : State} :
    Within levelParts s (levelLost d s) := by
  unfold levelLost
  try dsimp only
  repeat' with_reducible first
    | exact Within.refl
    | split
    | refine Within.step ?_ loseConfidence_within

theorem bothSides_within {l : List Part} {f : State → Side → State} {s : State}
    (h : ∀ t d, Within l t (f t d)) : Within l s (bothSides f s) := (h s .left).trans (h _ .right)

theorem sideMotion_within {m : Motion} {d : Side} {s : State} :
    Within levelParts s (sideMotion m s d) := by
  unfold sideMotion
  try dsimp only
  repeat' with_reducible first
    | exact Within.refl
    | split
    | refine Within.step ?_ freeze_within
    | refine Within.step ?_ enterState_within
    | with_reducible refine put_side ?_

theorem levelMotion_within {m : Motion} {s : State} :
    Within (.levelMotion :: levelParts) s (levelMotion m s) := by
  unfold levelMotion
  dsimp only
  split
  · refine Within.step ?_ (bothSides_within fun _ _ => sideMotion_within)
    exact put_level .refl
  · exact put_level .refl

theorem sideStation_within {d : Side} {s : State} :
    Within levelParts s (sideStation s d) := by
  unfold sideStation
  try dsimp only
  repeat' with_reducible first
    | exact Within.refl
    | split
    | refine Within.step ?_ evalTarget_within

theorem levelStation_within {s : State} : Within levelParts s (levelStation s) :=
  bothSides_within fun _ _ => sideStation_within

theorem startSide_within {d : Side} {s : State} :
    Within levelParts s (startSide d s) := by
  unfold startSide
  try dsimp only
  repeat' with_reducible first
    | exact Within.refl
    | split
    | refine Within.step ?_ freeze_within
    | refine Within.step ?_ enterState_within

theorem sideMode_within {a b : HubMode} {d : Side} {s : State} :
    Within levelParts s (sideMode a b s d) := by
  unfold sideMode
  try dsimp only
  repeat' with_reducible first
    | exact Within.refl
    | split
    | refine Within.step ?_ startSide_within
    | refine Within.step ?_ enterState_within
    | with_reducible refine put_side ?_

theorem levelMode_within {a b : HubMode} {s : State} : Within levelParts s (levelMode a b s) :=
  bothSides_within fun _ _ => sideMode_within

theorem sideModeSet_within {d : Side} {m : LevelMode} {s : State} :
    Within levelParts s (sideModeSet d m s) := by
  unfold sideModeSet
  try dsimp only
  repeat' with_reducible first
    | exact Within.refl
    | split
    | refine Within.step ?_ startSide_within
    | refine Within.step ?_ enterState_within

theorem levelWritten_within {d : Side} {e : LevelEntry} {s : State} :
    Within (.levelTable :: levelParts) s (levelWritten d e s) := by
  have h : Within (.levelTable :: levelParts) s { s with level := match d with
      | .left => { s.level with left := { s.level.left with entry := e } }
      | .right => { s.level with right := { s.level.right with entry := e } } } := by
    cases d <;> exact put_level .refl
  unfold levelWritten
  dsimp only
  generalize ({ s with level := _ } : State) = t at h ⊢
  repeat' first
    | with_reducible exact h
    | split
    | with_reducible refine Within.step ?_ enterState_within
    | with_reducible refine put_side ?_

/-! ### Feed -/

/-- What `modFeed` leaves alone. -/
theorem modFeed_same (x : Feed) (d : Side) (f : FeedVars → FeedVars) :
    ((modFeed x d f).left.entry = x.left.entry ∧ (modFeed x d f).right.entry = x.right.entry) ∧
      (modFeed x d f).motion = x.motion ∧ (modFeed x d f).hubMode = x.hubMode ∧
      (modFeed x d f).leftHalf = x.leftHalf ∧ (modFeed x d f).rightHalf = x.rightHalf ∧
      (modFeed x d f).baseHalf = x.baseHalf := by
  cases d <;> exact ⟨⟨rfl, rfl⟩, rfl, rfl, rfl, rfl, rfl⟩

/-- A feed side's record changed. -/
theorem put_feedSide {l : List Part} {s u : State} {d : Side} {f : FeedVars → FeedVars}
    (h : Within l s u) (hl : Part.feedSides ∈ l := by decide) : Within l s (modFeedSide d u f) :=
  have k := modFeed_same u.feed d f
  put_feed h (h_feedTable := .inr k.1) (h_feedSides := .inl hl) (h_feedCopies := .inr k.2)

theorem feedReport_within {s : State} : Within voteParts s (feedReport s) := by
  unfold feedReport
  split
  · exact .refl
  · exact reportVoter_within

theorem submitConveyor_within {d : Side} {n : Int} {s : State} :
    Within feedParts s (submitConveyor d n s) := by
  unfold submitConveyor
  refine Within.step ?_ submit_within
  exact put_feedSide .refl

theorem submitAuger_within {d : Side} {n : Int} {s : State} : Within feedParts s (submitAuger d n s) := by
  unfold submitAuger
  refine Within.step ?_ submit_within
  exact put_feedSide .refl

theorem submitStop_within {d : Side} {s : State} : Within feedParts s (submitStop d s) := by
  unfold submitStop
  dsimp only
  exact Within.step (Within.step .refl submitConveyor_within) submitAuger_within

theorem recomputeFeed_within {d : Side} {s : State} : Within feedParts s (recomputeFeed d s) := by
  unfold recomputeFeed
  dsimp only
  split
  · exact .refl
  · split
    · refine Within.step ?_ feedReport_within
      repeat' first
        | split
        | with_reducible refine Within.step ?_ submitConveyor_within
        | with_reducible refine Within.step ?_ submitAuger_within
        | exact put_feedSide .refl
    · exact .refl

theorem starveReports_within {d : Side} {b : Bool} {s : State} :
    Within feedParts s (starveReports d b s) := by
  unfold starveReports
  dsimp only
  exact Within.step (Within.step .refl tellMap_within) setLevelKind_within

theorem enterFeed_within {d : Side} {n : FeedState} {s : State} :
    Within feedParts s (enterFeed d n s) := by
  unfold enterFeed
  extract_lets v s1 s2 s3
  split
  · exact .refl
  have h1 : Within feedParts s s1 := put_feedSide .refl
  have h2 : Within feedParts s s2 := by
    unfold s2
    split
    · exact Within.step h1 starveReports_within
    · split
      · exact Within.step h1 starveReports_within
      · exact h1
  have h3 : Within feedParts s s3 := by
    unfold s3
    split
    · exact h2
    · exact Within.step h2 submitStop_within
  refine Within.step ?_ feedReport_within
  split
  · exact Within.step h3 recomputeFeed_within
  · exact h3

theorem testStarving_within {d : Side} {s : State} :
    Within feedParts s (testStarving d s) := by
  unfold testStarving
  try dsimp only
  repeat' with_reducible first
    | exact Within.refl
    | split
    | with_reducible refine put_feedSide ?_

theorem endStarving_within {d : Side} {s : State} :
    Within feedParts s (endStarving d s) := by
  unfold endStarving
  try dsimp only
  repeat' with_reducible first
    | exact Within.refl
    | split
    | refine Within.step ?_ enterFeed_within

theorem recomputeAndTest_within {d : Side} {s : State} : Within feedParts s (recomputeAndTest d s) := by
  unfold recomputeAndTest
  exact Within.step (Within.step recomputeFeed_within endStarving_within) testStarving_within

theorem autoEntry_within {d : Side} {s : State} :
    Within feedParts s (autoEntry d s) := by
  unfold autoEntry
  try dsimp only
  repeat' with_reducible first
    | exact Within.refl
    | split
    | refine Within.step ?_ enterFeed_within

theorem feedUpdate_within {d : Side} {n : Nat} {s : State} :
    Within feedParts s (feedUpdate d n s) := by
  unfold feedUpdate
  try dsimp only
  repeat' with_reducible first
    | exact Within.refl
    | split
    | refine Within.step ?_ recomputeAndTest_within
    | refine Within.step ?_ testStarving_within
    | refine Within.step ?_ enterFeed_within
    | with_reducible refine put_feedSide ?_

theorem feedStale_within {d : Side} {s : State} :
    Within feedParts s (feedStale d s) := by
  unfold feedStale
  try dsimp only
  repeat' with_reducible first
    | exact Within.refl
    | split
    | refine Within.step ?_ enterFeed_within
    | with_reducible refine put_feedSide ?_

theorem feedGeometry_within {a b c : Nat} {s : State} :
    Within (.feedCopies :: feedParts) s (feedGeometry a b c s) := by
  have h : Within (.feedCopies :: feedParts) s
      { s with feed := { s.feed with leftHalf := a, rightHalf := b, baseHalf := c } } := put_feed .refl
  unfold feedGeometry
  dsimp only
  repeat' first
    | with_reducible exact h
    | split
    | with_reducible refine Within.step ?_ recomputeFeed_within

theorem sideFeedMotion_within {m : Motion} {d : Side} {s : State} :
    Within feedParts s (sideFeedMotion m s d) := by
  unfold sideFeedMotion
  try dsimp only
  repeat' with_reducible first
    | exact Within.refl
    | split
    | refine Within.step ?_ autoEntry_within
    | refine Within.step ?_ enterFeed_within

theorem feedMotion_within {m : Motion} {s : State} : Within (.feedCopies :: feedParts) s (feedMotion m s) := by
  unfold feedMotion
  dsimp only
  split
  · refine Within.step ?_ (bothSides_within fun _ _ => sideFeedMotion_within)
    exact put_feed .refl
  · exact put_feed .refl

theorem sideFeedMode_within {m : HubMode} {d : Side} {s : State} :
    Within feedParts s (sideFeedMode m s d) := by
  unfold sideFeedMode
  try dsimp only
  repeat' with_reducible first
    | exact Within.refl
    | split
    | refine Within.step ?_ autoEntry_within
    | refine Within.step ?_ enterFeed_within
    | with_reducible refine put_feedSide ?_

theorem feedHubMode_within {m : HubMode} {s : State} : Within (.feedCopies :: feedParts) s (feedHubMode m s) := by
  unfold feedHubMode
  refine Within.step ?_ (bothSides_within fun _ _ => sideFeedMode_within)
  exact put_feed .refl

theorem feedModeSet_within {d : Side} {m : FeedMode} {s : State} :
    Within feedParts s (feedModeSet d m s) := by
  unfold feedModeSet
  try dsimp only
  repeat' with_reducible first
    | exact Within.refl
    | split
    | refine Within.step ?_ autoEntry_within
    | refine Within.step ?_ enterFeed_within

theorem feedWritten_within {d : Side} {e : FeedEntry} {s : State} :
    Within (.feedTable :: feedParts) s (feedWritten d e s) := by
  unfold feedWritten
  refine Within.step ?_ recomputeAndTest_within
  cases d <;> exact put_feed .refl

end Sys2Proof.Machine
end

