-- ==== Sys2Proof/Laws/State.lean ====
section
/-! SUPPORT. What each update of one block leaves as it was, field by field, so that no later proof
unfolds a record update. -/

namespace Sys2Proof.Machine

/-! ### `abandonCount` and `beginCount` -/

@[simp] theorem abandonCount_ref (r : Rmu) : (abandonCount r).ref = r.ref := rfl

@[simp] theorem abandonCount_lines (r : Rmu) : (abandonCount r).lines = r.lines := rfl

@[simp] theorem abandonCount_sweepList (r : Rmu) : (abandonCount r).sweepList = r.sweepList := rfl

@[simp] theorem abandonCount_counting (r : Rmu) : (abandonCount r).counting = none := rfl

@[simp] theorem abandonCount_gate (r : Rmu) : (abandonCount r).gate = none := rfl

@[simp] theorem abandonCount_counts (r : Rmu) : (abandonCount r).counts = r.counts := rfl

@[simp] theorem abandonCount_sweepRef (r : Rmu) : (abandonCount r).sweepRef = r.sweepRef := rfl

@[simp] theorem abandonCount_lastRef (r : Rmu) : (abandonCount r).lastRef = r.lastRef := rfl

@[simp] theorem abandonCount_heldRef (r : Rmu) : (abandonCount r).heldRef = r.heldRef := rfl

@[simp] theorem abandonCount_refAge (r : Rmu) : (abandonCount r).refAge = r.refAge := rfl

@[simp] theorem beginCount_ref (line place : Nat) (p : CountPhase) (first : Option Reading) (r : Rmu) :
    (beginCount line place p first r).ref = r.ref := rfl

@[simp] theorem beginCount_lines (line place : Nat) (p : CountPhase) (first : Option Reading) (r : Rmu) :
    (beginCount line place p first r).lines = r.lines := rfl

@[simp] theorem beginCount_sweepList (line place : Nat) (p : CountPhase) (first : Option Reading) (r : Rmu) :
    (beginCount line place p first r).sweepList = r.sweepList := rfl

@[simp] theorem beginCount_counting (line place : Nat) (p : CountPhase) (first : Option Reading) (r : Rmu) :
    (beginCount line place p first r).counting = 
      some ⟨line, place, p, first, countLimitTimer r.ref.mode⟩ := rfl

@[simp] theorem beginCount_gate (line place : Nat) (p : CountPhase) (first : Option Reading) (r : Rmu) :
    (beginCount line place p first r).gate = countGate r.ref := rfl

@[simp] theorem beginCount_counts (line place : Nat) (p : CountPhase) (first : Option Reading) (r : Rmu) :
    (beginCount line place p first r).counts = r.counts + 1 := rfl

@[simp] theorem beginCount_sweepRef (line place : Nat) (p : CountPhase) (first : Option Reading) (r : Rmu) :
    (beginCount line place p first r).sweepRef = r.sweepRef := rfl

@[simp] theorem beginCount_lastRef (line place : Nat) (p : CountPhase) (first : Option Reading) (r : Rmu) :
    (beginCount line place p first r).lastRef = r.lastRef := rfl

@[simp] theorem beginCount_heldRef (line place : Nat) (p : CountPhase) (first : Option Reading) (r : Rmu) :
    (beginCount line place p first r).heldRef = r.heldRef := rfl

@[simp] theorem beginCount_refAge (line place : Nat) (p : CountPhase) (first : Option Reading) (r : Rmu) :
    (beginCount line place p first r).refAge = r.refAge := rfl

/-! ### `onPort` -/

@[simp] theorem onPort_intake (p : Port) (f : PortRec → PortRec) (s : State) :
    (onPort p f s).intake = s.intake := rfl

@[simp] theorem onPort_travel (p : Port) (f : PortRec → PortRec) (s : State) :
    (onPort p f s).travel = s.travel := rfl

@[simp] theorem onPort_rmu (p : Port) (f : PortRec → PortRec) (s : State) :
    (onPort p f s).rmu = s.rmu := rfl

@[simp] theorem onPort_heat (p : Port) (f : PortRec → PortRec) (s : State) :
    (onPort p f s).heat = s.heat := rfl

@[simp] theorem onPort_power (p : Port) (f : PortRec → PortRec) (s : State) :
    (onPort p f s).power = s.power := rfl

@[simp] theorem onPort_voter (p : Port) (f : PortRec → PortRec) (s : State) :
    (onPort p f s).voter = s.voter := rfl

@[simp] theorem onPort_level (p : Port) (f : PortRec → PortRec) (s : State) :
    (onPort p f s).level = s.level := rfl

@[simp] theorem onPort_feed (p : Port) (f : PortRec → PortRec) (s : State) :
    (onPort p f s).feed = s.feed := rfl

@[simp] theorem onPort_disp (p : Port) (f : PortRec → PortRec) (s : State) :
    (onPort p f s).disp = s.disp := rfl

@[simp] theorem onPort_map (p : Port) (f : PortRec → PortRec) (s : State) :
    (onPort p f s).map = s.map := rfl

@[simp] theorem onPort_archive (p : Port) (f : PortRec → PortRec) (s : State) :
    (onPort p f s).archive = s.archive := rfl

@[simp] theorem onPort_flash (p : Port) (f : PortRec → PortRec) (s : State) :
    (onPort p f s).flash = s.flash := rfl

@[simp] theorem onPort_mgmt (p : Port) (f : PortRec → PortRec) (s : State) :
    (onPort p f s).mgmt = s.mgmt := rfl

@[simp] theorem onPort_log (p : Port) (f : PortRec → PortRec) (s : State) :
    (onPort p f s).log = s.log := rfl

@[simp] theorem onPort_jobKey (p : Port) (f : PortRec → PortRec) (s : State) :
    (onPort p f s).jobKey = s.jobKey := rfl

@[simp] theorem onPort_samples (p : Port) (f : PortRec → PortRec) (s : State) :
    (onPort p f s).samples = s.samples := rfl

@[simp] theorem onPort_marks (p : Port) (f : PortRec → PortRec) (s : State) :
    (onPort p f s).marks = s.marks := rfl

@[simp] theorem onPort_pending (p : Port) (f : PortRec → PortRec) (s : State) :
    (onPort p f s).pending = s.pending := rfl

/-! ### `modZone` -/

@[simp] theorem modZone_bridge (s : State) (z : Fin 16) (f : Zone → Zone) :
    (modZone s z f).bridge = s.bridge := rfl

@[simp] theorem modZone_intake (s : State) (z : Fin 16) (f : Zone → Zone) :
    (modZone s z f).intake = s.intake := rfl

@[simp] theorem modZone_travel (s : State) (z : Fin 16) (f : Zone → Zone) :
    (modZone s z f).travel = s.travel := rfl

@[simp] theorem modZone_rmu (s : State) (z : Fin 16) (f : Zone → Zone) :
    (modZone s z f).rmu = s.rmu := rfl

@[simp] theorem modZone_power (s : State) (z : Fin 16) (f : Zone → Zone) :
    (modZone s z f).power = s.power := rfl

@[simp] theorem modZone_voter (s : State) (z : Fin 16) (f : Zone → Zone) :
    (modZone s z f).voter = s.voter := rfl

@[simp] theorem modZone_level (s : State) (z : Fin 16) (f : Zone → Zone) :
    (modZone s z f).level = s.level := rfl

@[simp] theorem modZone_feed (s : State) (z : Fin 16) (f : Zone → Zone) :
    (modZone s z f).feed = s.feed := rfl

@[simp] theorem modZone_disp (s : State) (z : Fin 16) (f : Zone → Zone) :
    (modZone s z f).disp = s.disp := rfl

@[simp] theorem modZone_map (s : State) (z : Fin 16) (f : Zone → Zone) :
    (modZone s z f).map = s.map := rfl

@[simp] theorem modZone_archive (s : State) (z : Fin 16) (f : Zone → Zone) :
    (modZone s z f).archive = s.archive := rfl

@[simp] theorem modZone_flash (s : State) (z : Fin 16) (f : Zone → Zone) :
    (modZone s z f).flash = s.flash := rfl

@[simp] theorem modZone_mgmt (s : State) (z : Fin 16) (f : Zone → Zone) :
    (modZone s z f).mgmt = s.mgmt := rfl

@[simp] theorem modZone_log (s : State) (z : Fin 16) (f : Zone → Zone) :
    (modZone s z f).log = s.log := rfl

@[simp] theorem modZone_jobKey (s : State) (z : Fin 16) (f : Zone → Zone) :
    (modZone s z f).jobKey = s.jobKey := rfl

@[simp] theorem modZone_samples (s : State) (z : Fin 16) (f : Zone → Zone) :
    (modZone s z f).samples = s.samples := rfl

@[simp] theorem modZone_marks (s : State) (z : Fin 16) (f : Zone → Zone) :
    (modZone s z f).marks = s.marks := rfl

@[simp] theorem modZone_pending (s : State) (z : Fin 16) (f : Zone → Zone) :
    (modZone s z f).pending = s.pending := rfl

/-! ### `modZoneVars` -/

@[simp] theorem modZoneVars_bridge (s : State) (z : Fin 16) (f : ZoneVars → ZoneVars) :
    (modZoneVars s z f).bridge = s.bridge := rfl

@[simp] theorem modZoneVars_intake (s : State) (z : Fin 16) (f : ZoneVars → ZoneVars) :
    (modZoneVars s z f).intake = s.intake := rfl

@[simp] theorem modZoneVars_travel (s : State) (z : Fin 16) (f : ZoneVars → ZoneVars) :
    (modZoneVars s z f).travel = s.travel := rfl

@[simp] theorem modZoneVars_rmu (s : State) (z : Fin 16) (f : ZoneVars → ZoneVars) :
    (modZoneVars s z f).rmu = s.rmu := rfl

@[simp] theorem modZoneVars_power (s : State) (z : Fin 16) (f : ZoneVars → ZoneVars) :
    (modZoneVars s z f).power = s.power := rfl

@[simp] theorem modZoneVars_voter (s : State) (z : Fin 16) (f : ZoneVars → ZoneVars) :
    (modZoneVars s z f).voter = s.voter := rfl

@[simp] theorem modZoneVars_level (s : State) (z : Fin 16) (f : ZoneVars → ZoneVars) :
    (modZoneVars s z f).level = s.level := rfl

@[simp] theorem modZoneVars_feed (s : State) (z : Fin 16) (f : ZoneVars → ZoneVars) :
    (modZoneVars s z f).feed = s.feed := rfl

@[simp] theorem modZoneVars_disp (s : State) (z : Fin 16) (f : ZoneVars → ZoneVars) :
    (modZoneVars s z f).disp = s.disp := rfl

@[simp] theorem modZoneVars_map (s : State) (z : Fin 16) (f : ZoneVars → ZoneVars) :
    (modZoneVars s z f).map = s.map := rfl

@[simp] theorem modZoneVars_archive (s : State) (z : Fin 16) (f : ZoneVars → ZoneVars) :
    (modZoneVars s z f).archive = s.archive := rfl

@[simp] theorem modZoneVars_flash (s : State) (z : Fin 16) (f : ZoneVars → ZoneVars) :
    (modZoneVars s z f).flash = s.flash := rfl

@[simp] theorem modZoneVars_mgmt (s : State) (z : Fin 16) (f : ZoneVars → ZoneVars) :
    (modZoneVars s z f).mgmt = s.mgmt := rfl

@[simp] theorem modZoneVars_log (s : State) (z : Fin 16) (f : ZoneVars → ZoneVars) :
    (modZoneVars s z f).log = s.log := rfl

@[simp] theorem modZoneVars_jobKey (s : State) (z : Fin 16) (f : ZoneVars → ZoneVars) :
    (modZoneVars s z f).jobKey = s.jobKey := rfl

@[simp] theorem modZoneVars_samples (s : State) (z : Fin 16) (f : ZoneVars → ZoneVars) :
    (modZoneVars s z f).samples = s.samples := rfl

@[simp] theorem modZoneVars_marks (s : State) (z : Fin 16) (f : ZoneVars → ZoneVars) :
    (modZoneVars s z f).marks = s.marks := rfl

@[simp] theorem modZoneVars_pending (s : State) (z : Fin 16) (f : ZoneVars → ZoneVars) :
    (modZoneVars s z f).pending = s.pending := rfl

/-! ### `modSide` -/

@[simp] theorem modSide_bridge (d : Side) (s : State) (f : SideVars → SideVars) :
    (modSide d s f).bridge = s.bridge := rfl

@[simp] theorem modSide_intake (d : Side) (s : State) (f : SideVars → SideVars) :
    (modSide d s f).intake = s.intake := rfl

@[simp] theorem modSide_travel (d : Side) (s : State) (f : SideVars → SideVars) :
    (modSide d s f).travel = s.travel := rfl

@[simp] theorem modSide_rmu (d : Side) (s : State) (f : SideVars → SideVars) :
    (modSide d s f).rmu = s.rmu := rfl

@[simp] theorem modSide_heat (d : Side) (s : State) (f : SideVars → SideVars) :
    (modSide d s f).heat = s.heat := rfl

@[simp] theorem modSide_power (d : Side) (s : State) (f : SideVars → SideVars) :
    (modSide d s f).power = s.power := rfl

@[simp] theorem modSide_voter (d : Side) (s : State) (f : SideVars → SideVars) :
    (modSide d s f).voter = s.voter := rfl

@[simp] theorem modSide_feed (d : Side) (s : State) (f : SideVars → SideVars) :
    (modSide d s f).feed = s.feed := rfl

@[simp] theorem modSide_disp (d : Side) (s : State) (f : SideVars → SideVars) :
    (modSide d s f).disp = s.disp := rfl

@[simp] theorem modSide_map (d : Side) (s : State) (f : SideVars → SideVars) :
    (modSide d s f).map = s.map := rfl

@[simp] theorem modSide_archive (d : Side) (s : State) (f : SideVars → SideVars) :
    (modSide d s f).archive = s.archive := rfl

@[simp] theorem modSide_flash (d : Side) (s : State) (f : SideVars → SideVars) :
    (modSide d s f).flash = s.flash := rfl

@[simp] theorem modSide_mgmt (d : Side) (s : State) (f : SideVars → SideVars) :
    (modSide d s f).mgmt = s.mgmt := rfl

@[simp] theorem modSide_log (d : Side) (s : State) (f : SideVars → SideVars) :
    (modSide d s f).log = s.log := rfl

@[simp] theorem modSide_jobKey (d : Side) (s : State) (f : SideVars → SideVars) :
    (modSide d s f).jobKey = s.jobKey := rfl

@[simp] theorem modSide_samples (d : Side) (s : State) (f : SideVars → SideVars) :
    (modSide d s f).samples = s.samples := rfl

@[simp] theorem modSide_marks (d : Side) (s : State) (f : SideVars → SideVars) :
    (modSide d s f).marks = s.marks := rfl

@[simp] theorem modSide_pending (d : Side) (s : State) (f : SideVars → SideVars) :
    (modSide d s f).pending = s.pending := rfl

/-! ### `modFeedSide` -/

@[simp] theorem modFeedSide_bridge (d : Side) (s : State) (f : FeedVars → FeedVars) :
    (modFeedSide d s f).bridge = s.bridge := rfl

@[simp] theorem modFeedSide_intake (d : Side) (s : State) (f : FeedVars → FeedVars) :
    (modFeedSide d s f).intake = s.intake := rfl

@[simp] theorem modFeedSide_travel (d : Side) (s : State) (f : FeedVars → FeedVars) :
    (modFeedSide d s f).travel = s.travel := rfl

@[simp] theorem modFeedSide_rmu (d : Side) (s : State) (f : FeedVars → FeedVars) :
    (modFeedSide d s f).rmu = s.rmu := rfl

@[simp] theorem modFeedSide_heat (d : Side) (s : State) (f : FeedVars → FeedVars) :
    (modFeedSide d s f).heat = s.heat := rfl

@[simp] theorem modFeedSide_power (d : Side) (s : State) (f : FeedVars → FeedVars) :
    (modFeedSide d s f).power = s.power := rfl

@[simp] theorem modFeedSide_voter (d : Side) (s : State) (f : FeedVars → FeedVars) :
    (modFeedSide d s f).voter = s.voter := rfl

@[simp] theorem modFeedSide_level (d : Side) (s : State) (f : FeedVars → FeedVars) :
    (modFeedSide d s f).level = s.level := rfl

@[simp] theorem modFeedSide_disp (d : Side) (s : State) (f : FeedVars → FeedVars) :
    (modFeedSide d s f).disp = s.disp := rfl

@[simp] theorem modFeedSide_map (d : Side) (s : State) (f : FeedVars → FeedVars) :
    (modFeedSide d s f).map = s.map := rfl

@[simp] theorem modFeedSide_archive (d : Side) (s : State) (f : FeedVars → FeedVars) :
    (modFeedSide d s f).archive = s.archive := rfl

@[simp] theorem modFeedSide_flash (d : Side) (s : State) (f : FeedVars → FeedVars) :
    (modFeedSide d s f).flash = s.flash := rfl

@[simp] theorem modFeedSide_mgmt (d : Side) (s : State) (f : FeedVars → FeedVars) :
    (modFeedSide d s f).mgmt = s.mgmt := rfl

@[simp] theorem modFeedSide_log (d : Side) (s : State) (f : FeedVars → FeedVars) :
    (modFeedSide d s f).log = s.log := rfl

@[simp] theorem modFeedSide_jobKey (d : Side) (s : State) (f : FeedVars → FeedVars) :
    (modFeedSide d s f).jobKey = s.jobKey := rfl

@[simp] theorem modFeedSide_samples (d : Side) (s : State) (f : FeedVars → FeedVars) :
    (modFeedSide d s f).samples = s.samples := rfl

@[simp] theorem modFeedSide_marks (d : Side) (s : State) (f : FeedVars → FeedVars) :
    (modFeedSide d s f).marks = s.marks := rfl

@[simp] theorem modFeedSide_pending (d : Side) (s : State) (f : FeedVars → FeedVars) :
    (modFeedSide d s f).pending = s.pending := rfl

/-! ### `modLine` -/

@[simp] theorem modLine_bridge (s : State) (line : Nat) (f : LineVars → LineVars) :
    (modLine s line f).bridge = s.bridge := rfl

@[simp] theorem modLine_intake (s : State) (line : Nat) (f : LineVars → LineVars) :
    (modLine s line f).intake = s.intake := rfl

@[simp] theorem modLine_travel (s : State) (line : Nat) (f : LineVars → LineVars) :
    (modLine s line f).travel = s.travel := rfl

@[simp] theorem modLine_heat (s : State) (line : Nat) (f : LineVars → LineVars) :
    (modLine s line f).heat = s.heat := rfl

@[simp] theorem modLine_power (s : State) (line : Nat) (f : LineVars → LineVars) :
    (modLine s line f).power = s.power := rfl

@[simp] theorem modLine_voter (s : State) (line : Nat) (f : LineVars → LineVars) :
    (modLine s line f).voter = s.voter := rfl

@[simp] theorem modLine_level (s : State) (line : Nat) (f : LineVars → LineVars) :
    (modLine s line f).level = s.level := rfl

@[simp] theorem modLine_feed (s : State) (line : Nat) (f : LineVars → LineVars) :
    (modLine s line f).feed = s.feed := rfl

@[simp] theorem modLine_disp (s : State) (line : Nat) (f : LineVars → LineVars) :
    (modLine s line f).disp = s.disp := rfl

@[simp] theorem modLine_map (s : State) (line : Nat) (f : LineVars → LineVars) :
    (modLine s line f).map = s.map := rfl

@[simp] theorem modLine_archive (s : State) (line : Nat) (f : LineVars → LineVars) :
    (modLine s line f).archive = s.archive := rfl

@[simp] theorem modLine_flash (s : State) (line : Nat) (f : LineVars → LineVars) :
    (modLine s line f).flash = s.flash := rfl

@[simp] theorem modLine_mgmt (s : State) (line : Nat) (f : LineVars → LineVars) :
    (modLine s line f).mgmt = s.mgmt := rfl

@[simp] theorem modLine_log (s : State) (line : Nat) (f : LineVars → LineVars) :
    (modLine s line f).log = s.log := rfl

@[simp] theorem modLine_jobKey (s : State) (line : Nat) (f : LineVars → LineVars) :
    (modLine s line f).jobKey = s.jobKey := rfl

@[simp] theorem modLine_samples (s : State) (line : Nat) (f : LineVars → LineVars) :
    (modLine s line f).samples = s.samples := rfl

@[simp] theorem modLine_marks (s : State) (line : Nat) (f : LineVars → LineVars) :
    (modLine s line f).marks = s.marks := rfl

@[simp] theorem modLine_pending (s : State) (line : Nat) (f : LineVars → LineVars) :
    (modLine s line f).pending = s.pending := rfl

/-! ### `modArchive` -/

@[simp] theorem modArchive_bridge (s : State) (f : Archive → Archive) :
    (modArchive s f).bridge = s.bridge := rfl

@[simp] theorem modArchive_intake (s : State) (f : Archive → Archive) :
    (modArchive s f).intake = s.intake := rfl

@[simp] theorem modArchive_travel (s : State) (f : Archive → Archive) :
    (modArchive s f).travel = s.travel := rfl

@[simp] theorem modArchive_rmu (s : State) (f : Archive → Archive) :
    (modArchive s f).rmu = s.rmu := rfl

@[simp] theorem modArchive_heat (s : State) (f : Archive → Archive) :
    (modArchive s f).heat = s.heat := rfl

@[simp] theorem modArchive_power (s : State) (f : Archive → Archive) :
    (modArchive s f).power = s.power := rfl

@[simp] theorem modArchive_voter (s : State) (f : Archive → Archive) :
    (modArchive s f).voter = s.voter := rfl

@[simp] theorem modArchive_level (s : State) (f : Archive → Archive) :
    (modArchive s f).level = s.level := rfl

@[simp] theorem modArchive_feed (s : State) (f : Archive → Archive) :
    (modArchive s f).feed = s.feed := rfl

@[simp] theorem modArchive_disp (s : State) (f : Archive → Archive) :
    (modArchive s f).disp = s.disp := rfl

@[simp] theorem modArchive_map (s : State) (f : Archive → Archive) :
    (modArchive s f).map = s.map := rfl

@[simp] theorem modArchive_flash (s : State) (f : Archive → Archive) :
    (modArchive s f).flash = s.flash := rfl

@[simp] theorem modArchive_mgmt (s : State) (f : Archive → Archive) :
    (modArchive s f).mgmt = s.mgmt := rfl

@[simp] theorem modArchive_log (s : State) (f : Archive → Archive) :
    (modArchive s f).log = s.log := rfl

@[simp] theorem modArchive_jobKey (s : State) (f : Archive → Archive) :
    (modArchive s f).jobKey = s.jobKey := rfl

@[simp] theorem modArchive_samples (s : State) (f : Archive → Archive) :
    (modArchive s f).samples = s.samples := rfl

@[simp] theorem modArchive_marks (s : State) (f : Archive → Archive) :
    (modArchive s f).marks = s.marks := rfl

@[simp] theorem modArchive_pending (s : State) (f : Archive → Archive) :
    (modArchive s f).pending = s.pending := rfl

/-! ### `withTimer` -/

@[simp] theorem withTimer_bridge (t : Timer) (s : State) :
    (withTimer t s).bridge = s.bridge := rfl

@[simp] theorem withTimer_intake (t : Timer) (s : State) :
    (withTimer t s).intake = s.intake := rfl

@[simp] theorem withTimer_travel (t : Timer) (s : State) :
    (withTimer t s).travel = s.travel := rfl

@[simp] theorem withTimer_rmu (t : Timer) (s : State) :
    (withTimer t s).rmu = s.rmu := rfl

@[simp] theorem withTimer_heat (t : Timer) (s : State) :
    (withTimer t s).heat = s.heat := rfl

@[simp] theorem withTimer_power (t : Timer) (s : State) :
    (withTimer t s).power = s.power := rfl

@[simp] theorem withTimer_level (t : Timer) (s : State) :
    (withTimer t s).level = s.level := rfl

@[simp] theorem withTimer_feed (t : Timer) (s : State) :
    (withTimer t s).feed = s.feed := rfl

@[simp] theorem withTimer_disp (t : Timer) (s : State) :
    (withTimer t s).disp = s.disp := rfl

@[simp] theorem withTimer_map (t : Timer) (s : State) :
    (withTimer t s).map = s.map := rfl

@[simp] theorem withTimer_archive (t : Timer) (s : State) :
    (withTimer t s).archive = s.archive := rfl

@[simp] theorem withTimer_flash (t : Timer) (s : State) :
    (withTimer t s).flash = s.flash := rfl

@[simp] theorem withTimer_mgmt (t : Timer) (s : State) :
    (withTimer t s).mgmt = s.mgmt := rfl

@[simp] theorem withTimer_log (t : Timer) (s : State) :
    (withTimer t s).log = s.log := rfl

@[simp] theorem withTimer_jobKey (t : Timer) (s : State) :
    (withTimer t s).jobKey = s.jobKey := rfl

@[simp] theorem withTimer_samples (t : Timer) (s : State) :
    (withTimer t s).samples = s.samples := rfl

@[simp] theorem withTimer_marks (t : Timer) (s : State) :
    (withTimer t s).marks = s.marks := rfl

@[simp] theorem withTimer_pending (t : Timer) (s : State) :
    (withTimer t s).pending = s.pending := rfl

/-! ### `withSag` -/

@[simp] theorem withSag_bridge (g : SagState) (a b : Timer) (s : State) :
    (withSag g a b s).bridge = s.bridge := rfl

@[simp] theorem withSag_intake (g : SagState) (a b : Timer) (s : State) :
    (withSag g a b s).intake = s.intake := rfl

@[simp] theorem withSag_travel (g : SagState) (a b : Timer) (s : State) :
    (withSag g a b s).travel = s.travel := rfl

@[simp] theorem withSag_rmu (g : SagState) (a b : Timer) (s : State) :
    (withSag g a b s).rmu = s.rmu := rfl

@[simp] theorem withSag_heat (g : SagState) (a b : Timer) (s : State) :
    (withSag g a b s).heat = s.heat := rfl

@[simp] theorem withSag_voter (g : SagState) (a b : Timer) (s : State) :
    (withSag g a b s).voter = s.voter := rfl

@[simp] theorem withSag_level (g : SagState) (a b : Timer) (s : State) :
    (withSag g a b s).level = s.level := rfl

@[simp] theorem withSag_feed (g : SagState) (a b : Timer) (s : State) :
    (withSag g a b s).feed = s.feed := rfl

@[simp] theorem withSag_disp (g : SagState) (a b : Timer) (s : State) :
    (withSag g a b s).disp = s.disp := rfl

@[simp] theorem withSag_map (g : SagState) (a b : Timer) (s : State) :
    (withSag g a b s).map = s.map := rfl

@[simp] theorem withSag_archive (g : SagState) (a b : Timer) (s : State) :
    (withSag g a b s).archive = s.archive := rfl

@[simp] theorem withSag_flash (g : SagState) (a b : Timer) (s : State) :
    (withSag g a b s).flash = s.flash := rfl

@[simp] theorem withSag_mgmt (g : SagState) (a b : Timer) (s : State) :
    (withSag g a b s).mgmt = s.mgmt := rfl

@[simp] theorem withSag_log (g : SagState) (a b : Timer) (s : State) :
    (withSag g a b s).log = s.log := rfl

@[simp] theorem withSag_jobKey (g : SagState) (a b : Timer) (s : State) :
    (withSag g a b s).jobKey = s.jobKey := rfl

@[simp] theorem withSag_samples (g : SagState) (a b : Timer) (s : State) :
    (withSag g a b s).samples = s.samples := rfl

@[simp] theorem withSag_marks (g : SagState) (a b : Timer) (s : State) :
    (withSag g a b s).marks = s.marks := rfl

@[simp] theorem withSag_pending (g : SagState) (a b : Timer) (s : State) :
    (withSag g a b s).pending = s.pending := rfl

/-! ### `tellMap` -/

@[simp] theorem tellMap_bridge (f : RowFlag) (b : Bool) (s : State) :
    (tellMap f b s).bridge = s.bridge := rfl

@[simp] theorem tellMap_intake (f : RowFlag) (b : Bool) (s : State) :
    (tellMap f b s).intake = s.intake := rfl

@[simp] theorem tellMap_travel (f : RowFlag) (b : Bool) (s : State) :
    (tellMap f b s).travel = s.travel := rfl

@[simp] theorem tellMap_rmu (f : RowFlag) (b : Bool) (s : State) :
    (tellMap f b s).rmu = s.rmu := rfl

@[simp] theorem tellMap_heat (f : RowFlag) (b : Bool) (s : State) :
    (tellMap f b s).heat = s.heat := rfl

@[simp] theorem tellMap_power (f : RowFlag) (b : Bool) (s : State) :
    (tellMap f b s).power = s.power := rfl

@[simp] theorem tellMap_voter (f : RowFlag) (b : Bool) (s : State) :
    (tellMap f b s).voter = s.voter := rfl

@[simp] theorem tellMap_level (f : RowFlag) (b : Bool) (s : State) :
    (tellMap f b s).level = s.level := rfl

@[simp] theorem tellMap_feed (f : RowFlag) (b : Bool) (s : State) :
    (tellMap f b s).feed = s.feed := rfl

@[simp] theorem tellMap_disp (f : RowFlag) (b : Bool) (s : State) :
    (tellMap f b s).disp = s.disp := rfl

@[simp] theorem tellMap_archive (f : RowFlag) (b : Bool) (s : State) :
    (tellMap f b s).archive = s.archive := rfl

@[simp] theorem tellMap_flash (f : RowFlag) (b : Bool) (s : State) :
    (tellMap f b s).flash = s.flash := rfl

@[simp] theorem tellMap_mgmt (f : RowFlag) (b : Bool) (s : State) :
    (tellMap f b s).mgmt = s.mgmt := rfl

@[simp] theorem tellMap_log (f : RowFlag) (b : Bool) (s : State) :
    (tellMap f b s).log = s.log := rfl

@[simp] theorem tellMap_jobKey (f : RowFlag) (b : Bool) (s : State) :
    (tellMap f b s).jobKey = s.jobKey := rfl

@[simp] theorem tellMap_samples (f : RowFlag) (b : Bool) (s : State) :
    (tellMap f b s).samples = s.samples := rfl

@[simp] theorem tellMap_marks (f : RowFlag) (b : Bool) (s : State) :
    (tellMap f b s).marks = s.marks := rfl

@[simp] theorem tellMap_pending (f : RowFlag) (b : Bool) (s : State) :
    (tellMap f b s).pending = s.pending := rfl

/-! ### `gapRows` -/

@[simp] theorem gapRows_bridge (a b : Int) (k : Nat) (r : GapReason) (s : State) :
    (gapRows a b k r s).bridge = s.bridge := rfl

@[simp] theorem gapRows_intake (a b : Int) (k : Nat) (r : GapReason) (s : State) :
    (gapRows a b k r s).intake = s.intake := rfl

@[simp] theorem gapRows_travel (a b : Int) (k : Nat) (r : GapReason) (s : State) :
    (gapRows a b k r s).travel = s.travel := rfl

@[simp] theorem gapRows_rmu (a b : Int) (k : Nat) (r : GapReason) (s : State) :
    (gapRows a b k r s).rmu = s.rmu := rfl

@[simp] theorem gapRows_heat (a b : Int) (k : Nat) (r : GapReason) (s : State) :
    (gapRows a b k r s).heat = s.heat := rfl

@[simp] theorem gapRows_power (a b : Int) (k : Nat) (r : GapReason) (s : State) :
    (gapRows a b k r s).power = s.power := rfl

@[simp] theorem gapRows_voter (a b : Int) (k : Nat) (r : GapReason) (s : State) :
    (gapRows a b k r s).voter = s.voter := rfl

@[simp] theorem gapRows_level (a b : Int) (k : Nat) (r : GapReason) (s : State) :
    (gapRows a b k r s).level = s.level := rfl

@[simp] theorem gapRows_feed (a b : Int) (k : Nat) (r : GapReason) (s : State) :
    (gapRows a b k r s).feed = s.feed := rfl

@[simp] theorem gapRows_disp (a b : Int) (k : Nat) (r : GapReason) (s : State) :
    (gapRows a b k r s).disp = s.disp := rfl

@[simp] theorem gapRows_archive (a b : Int) (k : Nat) (r : GapReason) (s : State) :
    (gapRows a b k r s).archive = s.archive := rfl

@[simp] theorem gapRows_flash (a b : Int) (k : Nat) (r : GapReason) (s : State) :
    (gapRows a b k r s).flash = s.flash := rfl

@[simp] theorem gapRows_mgmt (a b : Int) (k : Nat) (r : GapReason) (s : State) :
    (gapRows a b k r s).mgmt = s.mgmt := rfl

@[simp] theorem gapRows_log (a b : Int) (k : Nat) (r : GapReason) (s : State) :
    (gapRows a b k r s).log = s.log := rfl

@[simp] theorem gapRows_jobKey (a b : Int) (k : Nat) (r : GapReason) (s : State) :
    (gapRows a b k r s).jobKey = s.jobKey := rfl

@[simp] theorem gapRows_samples (a b : Int) (k : Nat) (r : GapReason) (s : State) :
    (gapRows a b k r s).samples = s.samples := rfl

@[simp] theorem gapRows_marks (a b : Int) (k : Nat) (r : GapReason) (s : State) :
    (gapRows a b k r s).marks = s.marks := rfl

@[simp] theorem gapRows_pending (a b : Int) (k : Nat) (r : GapReason) (s : State) :
    (gapRows a b k r s).pending = s.pending := rfl

/-! ### `mapMotion` -/

@[simp] theorem mapMotion_bridge (m : Motion) (s : State) :
    (mapMotion m s).bridge = s.bridge := rfl

@[simp] theorem mapMotion_intake (m : Motion) (s : State) :
    (mapMotion m s).intake = s.intake := rfl

@[simp] theorem mapMotion_travel (m : Motion) (s : State) :
    (mapMotion m s).travel = s.travel := rfl

@[simp] theorem mapMotion_rmu (m : Motion) (s : State) :
    (mapMotion m s).rmu = s.rmu := rfl

@[simp] theorem mapMotion_heat (m : Motion) (s : State) :
    (mapMotion m s).heat = s.heat := rfl

@[simp] theorem mapMotion_power (m : Motion) (s : State) :
    (mapMotion m s).power = s.power := rfl

@[simp] theorem mapMotion_voter (m : Motion) (s : State) :
    (mapMotion m s).voter = s.voter := rfl

@[simp] theorem mapMotion_level (m : Motion) (s : State) :
    (mapMotion m s).level = s.level := rfl

@[simp] theorem mapMotion_feed (m : Motion) (s : State) :
    (mapMotion m s).feed = s.feed := rfl

@[simp] theorem mapMotion_disp (m : Motion) (s : State) :
    (mapMotion m s).disp = s.disp := rfl

@[simp] theorem mapMotion_archive (m : Motion) (s : State) :
    (mapMotion m s).archive = s.archive := rfl

@[simp] theorem mapMotion_flash (m : Motion) (s : State) :
    (mapMotion m s).flash = s.flash := rfl

@[simp] theorem mapMotion_mgmt (m : Motion) (s : State) :
    (mapMotion m s).mgmt = s.mgmt := rfl

@[simp] theorem mapMotion_log (m : Motion) (s : State) :
    (mapMotion m s).log = s.log := rfl

@[simp] theorem mapMotion_jobKey (m : Motion) (s : State) :
    (mapMotion m s).jobKey = s.jobKey := rfl

@[simp] theorem mapMotion_samples (m : Motion) (s : State) :
    (mapMotion m s).samples = s.samples := rfl

@[simp] theorem mapMotion_marks (m : Motion) (s : State) :
    (mapMotion m s).marks = s.marks := rfl

@[simp] theorem mapMotion_pending (m : Motion) (s : State) :
    (mapMotion m s).pending = s.pending := rfl

/-! ### `mapGeometry` -/

@[simp] theorem mapGeometry_bridge (a b : Nat) (s : State) :
    (mapGeometry a b s).bridge = s.bridge := rfl

@[simp] theorem mapGeometry_intake (a b : Nat) (s : State) :
    (mapGeometry a b s).intake = s.intake := rfl

@[simp] theorem mapGeometry_travel (a b : Nat) (s : State) :
    (mapGeometry a b s).travel = s.travel := rfl

@[simp] theorem mapGeometry_rmu (a b : Nat) (s : State) :
    (mapGeometry a b s).rmu = s.rmu := rfl

@[simp] theorem mapGeometry_heat (a b : Nat) (s : State) :
    (mapGeometry a b s).heat = s.heat := rfl

@[simp] theorem mapGeometry_power (a b : Nat) (s : State) :
    (mapGeometry a b s).power = s.power := rfl

@[simp] theorem mapGeometry_voter (a b : Nat) (s : State) :
    (mapGeometry a b s).voter = s.voter := rfl

@[simp] theorem mapGeometry_level (a b : Nat) (s : State) :
    (mapGeometry a b s).level = s.level := rfl

@[simp] theorem mapGeometry_feed (a b : Nat) (s : State) :
    (mapGeometry a b s).feed = s.feed := rfl

@[simp] theorem mapGeometry_disp (a b : Nat) (s : State) :
    (mapGeometry a b s).disp = s.disp := rfl

@[simp] theorem mapGeometry_archive (a b : Nat) (s : State) :
    (mapGeometry a b s).archive = s.archive := rfl

@[simp] theorem mapGeometry_flash (a b : Nat) (s : State) :
    (mapGeometry a b s).flash = s.flash := rfl

@[simp] theorem mapGeometry_mgmt (a b : Nat) (s : State) :
    (mapGeometry a b s).mgmt = s.mgmt := rfl

@[simp] theorem mapGeometry_log (a b : Nat) (s : State) :
    (mapGeometry a b s).log = s.log := rfl

@[simp] theorem mapGeometry_jobKey (a b : Nat) (s : State) :
    (mapGeometry a b s).jobKey = s.jobKey := rfl

@[simp] theorem mapGeometry_samples (a b : Nat) (s : State) :
    (mapGeometry a b s).samples = s.samples := rfl

@[simp] theorem mapGeometry_marks (a b : Nat) (s : State) :
    (mapGeometry a b s).marks = s.marks := rfl

@[simp] theorem mapGeometry_pending (a b : Nat) (s : State) :
    (mapGeometry a b s).pending = s.pending := rfl

/-! ### `endLevel` -/

@[simp] theorem endLevel_bridge (k : CondKind) (s : State) :
    (endLevel k s).bridge = s.bridge := rfl

@[simp] theorem endLevel_intake (k : CondKind) (s : State) :
    (endLevel k s).intake = s.intake := rfl

@[simp] theorem endLevel_travel (k : CondKind) (s : State) :
    (endLevel k s).travel = s.travel := rfl

@[simp] theorem endLevel_rmu (k : CondKind) (s : State) :
    (endLevel k s).rmu = s.rmu := rfl

@[simp] theorem endLevel_heat (k : CondKind) (s : State) :
    (endLevel k s).heat = s.heat := rfl

@[simp] theorem endLevel_power (k : CondKind) (s : State) :
    (endLevel k s).power = s.power := rfl

@[simp] theorem endLevel_voter (k : CondKind) (s : State) :
    (endLevel k s).voter = s.voter := rfl

@[simp] theorem endLevel_level (k : CondKind) (s : State) :
    (endLevel k s).level = s.level := rfl

@[simp] theorem endLevel_feed (k : CondKind) (s : State) :
    (endLevel k s).feed = s.feed := rfl

@[simp] theorem endLevel_disp (k : CondKind) (s : State) :
    (endLevel k s).disp = s.disp := rfl

@[simp] theorem endLevel_map (k : CondKind) (s : State) :
    (endLevel k s).map = s.map := rfl

@[simp] theorem endLevel_archive (k : CondKind) (s : State) :
    (endLevel k s).archive = s.archive := rfl

@[simp] theorem endLevel_flash (k : CondKind) (s : State) :
    (endLevel k s).flash = s.flash := rfl

@[simp] theorem endLevel_mgmt (k : CondKind) (s : State) :
    (endLevel k s).mgmt = s.mgmt := rfl

@[simp] theorem endLevel_jobKey (k : CondKind) (s : State) :
    (endLevel k s).jobKey = s.jobKey := rfl

@[simp] theorem endLevel_samples (k : CondKind) (s : State) :
    (endLevel k s).samples = s.samples := rfl

@[simp] theorem endLevel_marks (k : CondKind) (s : State) :
    (endLevel k s).marks = s.marks := rfl

@[simp] theorem endLevel_pending (k : CondKind) (s : State) :
    (endLevel k s).pending = s.pending := rfl

/-! ### `clearKind` -/

@[simp] theorem clearKind_bridge (s : State) (k : CondKind) :
    (clearKind s k).bridge = s.bridge := rfl

@[simp] theorem clearKind_intake (s : State) (k : CondKind) :
    (clearKind s k).intake = s.intake := rfl

@[simp] theorem clearKind_travel (s : State) (k : CondKind) :
    (clearKind s k).travel = s.travel := rfl

@[simp] theorem clearKind_rmu (s : State) (k : CondKind) :
    (clearKind s k).rmu = s.rmu := rfl

@[simp] theorem clearKind_heat (s : State) (k : CondKind) :
    (clearKind s k).heat = s.heat := rfl

@[simp] theorem clearKind_power (s : State) (k : CondKind) :
    (clearKind s k).power = s.power := rfl

@[simp] theorem clearKind_voter (s : State) (k : CondKind) :
    (clearKind s k).voter = s.voter := rfl

@[simp] theorem clearKind_level (s : State) (k : CondKind) :
    (clearKind s k).level = s.level := rfl

@[simp] theorem clearKind_feed (s : State) (k : CondKind) :
    (clearKind s k).feed = s.feed := rfl

@[simp] theorem clearKind_disp (s : State) (k : CondKind) :
    (clearKind s k).disp = s.disp := rfl

@[simp] theorem clearKind_map (s : State) (k : CondKind) :
    (clearKind s k).map = s.map := rfl

@[simp] theorem clearKind_archive (s : State) (k : CondKind) :
    (clearKind s k).archive = s.archive := rfl

@[simp] theorem clearKind_flash (s : State) (k : CondKind) :
    (clearKind s k).flash = s.flash := rfl

@[simp] theorem clearKind_mgmt (s : State) (k : CondKind) :
    (clearKind s k).mgmt = s.mgmt := rfl

@[simp] theorem clearKind_jobKey (s : State) (k : CondKind) :
    (clearKind s k).jobKey = s.jobKey := rfl

@[simp] theorem clearKind_samples (s : State) (k : CondKind) :
    (clearKind s k).samples = s.samples := rfl

@[simp] theorem clearKind_marks (s : State) (k : CondKind) :
    (clearKind s k).marks = s.marks := rfl

@[simp] theorem clearKind_pending (s : State) (k : CondKind) :
    (clearKind s k).pending = s.pending := rfl

/-! ### `begin` -/

@[simp] theorem begin_bridge (code : Nat) (seq : Seq) (s : State) :
    (begin code seq s).bridge = s.bridge := rfl

@[simp] theorem begin_intake (code : Nat) (seq : Seq) (s : State) :
    (begin code seq s).intake = s.intake := rfl

@[simp] theorem begin_travel (code : Nat) (seq : Seq) (s : State) :
    (begin code seq s).travel = s.travel := rfl

@[simp] theorem begin_rmu (code : Nat) (seq : Seq) (s : State) :
    (begin code seq s).rmu = s.rmu := rfl

@[simp] theorem begin_heat (code : Nat) (seq : Seq) (s : State) :
    (begin code seq s).heat = s.heat := rfl

@[simp] theorem begin_power (code : Nat) (seq : Seq) (s : State) :
    (begin code seq s).power = s.power := rfl

@[simp] theorem begin_voter (code : Nat) (seq : Seq) (s : State) :
    (begin code seq s).voter = s.voter := rfl

@[simp] theorem begin_level (code : Nat) (seq : Seq) (s : State) :
    (begin code seq s).level = s.level := rfl

@[simp] theorem begin_feed (code : Nat) (seq : Seq) (s : State) :
    (begin code seq s).feed = s.feed := rfl

@[simp] theorem begin_disp (code : Nat) (seq : Seq) (s : State) :
    (begin code seq s).disp = s.disp := rfl

@[simp] theorem begin_map (code : Nat) (seq : Seq) (s : State) :
    (begin code seq s).map = s.map := rfl

@[simp] theorem begin_archive (code : Nat) (seq : Seq) (s : State) :
    (begin code seq s).archive = s.archive := rfl

@[simp] theorem begin_flash (code : Nat) (seq : Seq) (s : State) :
    (begin code seq s).flash = s.flash := rfl

@[simp] theorem begin_log (code : Nat) (seq : Seq) (s : State) :
    (begin code seq s).log = s.log := rfl

@[simp] theorem begin_jobKey (code : Nat) (seq : Seq) (s : State) :
    (begin code seq s).jobKey = s.jobKey := rfl

@[simp] theorem begin_samples (code : Nat) (seq : Seq) (s : State) :
    (begin code seq s).samples = s.samples := rfl

@[simp] theorem begin_marks (code : Nat) (seq : Seq) (s : State) :
    (begin code seq s).marks = s.marks := rfl

@[simp] theorem begin_pending (code : Nat) (seq : Seq) (s : State) :
    (begin code seq s).pending = s.pending := rfl

/-! ### `setKind` -/

@[simp] theorem setKind_bridge (k : RequestKind) (s : State) :
    (setKind k s).bridge = s.bridge := rfl

@[simp] theorem setKind_intake (k : RequestKind) (s : State) :
    (setKind k s).intake = s.intake := rfl

@[simp] theorem setKind_travel (k : RequestKind) (s : State) :
    (setKind k s).travel = s.travel := rfl

@[simp] theorem setKind_rmu (k : RequestKind) (s : State) :
    (setKind k s).rmu = s.rmu := rfl

@[simp] theorem setKind_heat (k : RequestKind) (s : State) :
    (setKind k s).heat = s.heat := rfl

@[simp] theorem setKind_power (k : RequestKind) (s : State) :
    (setKind k s).power = s.power := rfl

@[simp] theorem setKind_voter (k : RequestKind) (s : State) :
    (setKind k s).voter = s.voter := rfl

@[simp] theorem setKind_level (k : RequestKind) (s : State) :
    (setKind k s).level = s.level := rfl

@[simp] theorem setKind_feed (k : RequestKind) (s : State) :
    (setKind k s).feed = s.feed := rfl

@[simp] theorem setKind_disp (k : RequestKind) (s : State) :
    (setKind k s).disp = s.disp := rfl

@[simp] theorem setKind_map (k : RequestKind) (s : State) :
    (setKind k s).map = s.map := rfl

@[simp] theorem setKind_archive (k : RequestKind) (s : State) :
    (setKind k s).archive = s.archive := rfl

@[simp] theorem setKind_flash (k : RequestKind) (s : State) :
    (setKind k s).flash = s.flash := rfl

@[simp] theorem setKind_log (k : RequestKind) (s : State) :
    (setKind k s).log = s.log := rfl

@[simp] theorem setKind_jobKey (k : RequestKind) (s : State) :
    (setKind k s).jobKey = s.jobKey := rfl

@[simp] theorem setKind_samples (k : RequestKind) (s : State) :
    (setKind k s).samples = s.samples := rfl

@[simp] theorem setKind_marks (k : RequestKind) (s : State) :
    (setKind k s).marks = s.marks := rfl

@[simp] theorem setKind_pending (k : RequestKind) (s : State) :
    (setKind k s).pending = s.pending := rfl

/-! ### Inside the block that changes -/

@[simp] theorem modArchive_archive (s : State) (f : Archive → Archive) :
    (modArchive s f).archive = f s.archive := rfl

@[simp] theorem withTimer_voter (t : Timer) (s : State) :
    (withTimer t s).voter = { s.voter with timer := t } := rfl

@[simp] theorem begin_mgmt (code : Nat) (seq : Seq) (s : State) :
    (begin code seq s).mgmt =
      { s.mgmt with request := some ⟨code, seq.val, s.bridge.consoleNode, .plain⟩ } := rfl

@[simp] theorem onPort_getPort (p : Port) (f : PortRec → PortRec) (s : State) :
    getPort (onPort p f s).bridge p = f (getPort s.bridge p) := by cases p <;> rfl

@[simp] theorem onPort_otherPort (p : Port) (f : PortRec → PortRec) (s : State) :
    getPort (onPort p f s).bridge (otherPort p) = getPort s.bridge (otherPort p) := by cases p <;> rfl

@[simp] theorem onPort_nodes (p : Port) (f : PortRec → PortRec) (s : State) :
    (onPort p f s).bridge.nodes = s.bridge.nodes := by cases p <;> rfl

@[simp] theorem onPort_filters (p : Port) (f : PortRec → PortRec) (s : State) :
    (onPort p f s).bridge.filters = s.bridge.filters := by cases p <;> rfl

@[simp] theorem onPort_ownNode (p : Port) (f : PortRec → PortRec) (s : State) :
    (onPort p f s).bridge.ownNode = s.bridge.ownNode := by cases p <;> rfl

@[simp] theorem onPort_consoleNode (p : Port) (f : PortRec → PortRec) (s : State) :
    (onPort p f s).bridge.consoleNode = s.bridge.consoleNode := by cases p <;> rfl

@[simp] theorem sideVars_modSide (d : Side) (s : State) (f : SideVars → SideVars) :
    sideVars (modSide d s f) d = f (sideVars s d) := by cases d <;> rfl

@[simp] theorem sideVars_modSide_other (d : Side) (s : State) (f : SideVars → SideVars) :
    sideVars (modSide d s f) (otherSide d) = sideVars s (otherSide d) := by cases d <;> rfl

@[simp] theorem feedVars_modFeedSide (d : Side) (s : State) (f : FeedVars → FeedVars) :
    feedVars (modFeedSide d s f) d = f (feedVars s d) := by cases d <;> rfl

@[simp] theorem feedVars_modFeedSide_other (d : Side) (s : State) (f : FeedVars → FeedVars) :
    feedVars (modFeedSide d s f) (otherSide d) = feedVars s (otherSide d) := by cases d <;> rfl

/-! ### Tables -/

theorem upd_self {α : Type} {n : Nat} (v : Vector α n) (i : Fin n) (f : α → α) :
    (upd v i f)[i] = f v[i] := Vector.getElem_set_self i.isLt

@[simp] theorem upd_val {α : Type} {n : Nat} (v : Vector α n) (i : Fin n) (f : α → α) :
    (upd v i f)[i.val] = f v[i.val] := Vector.getElem_set_self i.isLt

theorem upd_other {α : Type} {n : Nat} (v : Vector α n) (i j : Fin n) (f : α → α) (h : i ≠ j) :
    (upd v i f)[j] = v[j] := by
  have : i.val ≠ j.val := fun e => h (Fin.ext e)
  simp [upd, this]

theorem upd_get {α : Type} {n : Nat} (v : Vector α n) (i j : Fin n) (f : α → α) :
    (upd v i f)[j] = if i = j then f v[i] else v[j] := by
  split
  · next h => subst h; exact upd_self v i f
  · next h => exact upd_other v i j f h

@[simp] theorem getZone_modZone (s : State) (z : Fin 16) (f : Zone → Zone) :
    getZone (modZone s z f) z = f (getZone s z) := upd_self _ _ _

theorem getZone_modZone_other (s : State) (z y : Fin 16) (f : Zone → Zone) (h : z ≠ y) :
    getZone (modZone s z f) y = getZone s y := upd_other _ _ _ _ h

theorem getTarget_modTarget (d : Dispatcher) (t : Fin 7) (f : Target → Target) :
    (modTarget d t f).targets[t] = f d.targets[t] := upd_self _ _ _

theorem getTarget_modTarget_other (d : Dispatcher) (t u : Fin 7) (f : Target → Target) (h : t ≠ u) :
    (modTarget d t f).targets[u] = d.targets[u] := upd_other _ _ _ _ h

end Sys2Proof.Machine
end

