-- ==== Sys2Proof/Laws/FramesC.lean ====
section
/-! SUPPORT. What the operations of the map, travel, intake, measurement and archive change. -/

namespace Sys2Proof.Machine

-- One theorem at a time: the package as one text then needs few threads.
set_option Elab.async false

/-! ### The mat map -/

theorem placeRecord_within {r : Record} {s : State} : Within recordParts s (placeRecord r s).1 := by
  unfold placeRecord
  split
  · split
    · exact put_map .refl
    · exact .refl
  · split
    · refine Within.step (t := { s with map := _ }) ?_ occur_within
      exact put_map .refl
    · exact .refl

theorem gapRows_within {a b : Int} {k : Nat} {r : GapReason} {s : State} :
    Within [.records] s (gapRows a b k r s) := put_map .refl

theorem gapRestart_within {n : Int} {s : State} : Within [.records] s (gapRestart n s) := put_map .refl

theorem closeGap_within {s : State} : Within recordParts s (closeGap s) := by
  unfold closeGap
  split
  · exact .refl
  · refine Within.step ?_ occur_within
    exact put_map .refl

theorem closeRow_within {row : OpenRow} {s : State} : Within rowParts s (closeRow row s) := by
  unfold closeRow
  extract_lets counts r
  refine Within.step ?_ rowCloseReport_within
  have h : Within rowParts s r.1 := Within.step .refl placeRecord_within
  split
  · exact h
  · exact Within.step h gapRows_within

theorem closeRows_within {row : OpenRow} {k : Nat} {s : State} :
    Within rowParts s (closeRows row k s) := by
  unfold closeRows
  extract_lets s1 e next s2
  have h1 : Within rowParts s s1 := closeRow_within
  have h2 : Within rowParts s s2 := by
    unfold s2
    split
    · exact Within.step h1 gapRows_within
    · exact h1
  exact put_map h2

theorem mapStation_within {a b : Int} {s : State} : Within rowParts s (mapStation a b s) := by
  unfold mapStation
  extract_lets m0 s1
  have h1 : Within rowParts s s1 := put_map .refl
  split
  · exact h1
  · extract_lets e
    split
    · exact h1
    · exact Within.step h1 closeRows_within

/-- What `applyScan` leaves alone. -/
theorem applyScan_same (m : MatMap) :
    (applyScan m).entry = m.entry ∧ ((applyScan m).queue = m.queue ∧ (applyScan m).gap = m.gap) ∧
      (applyScan m).cause = m.cause ∧ (applyScan m).station = m.station ∧
      (applyScan m).highWater = m.highWater ∧ (applyScan m).motion = m.motion ∧
      (applyScan m).cLo = m.cLo ∧ (applyScan m).cHi = m.cHi ∧ (applyScan m).hubMode = m.hubMode ∧
      (applyScan m).standing = m.standing := by
  unfold applyScan
  dsimp only
  split
  · split <;> exact ⟨rfl, ⟨rfl, rfl⟩, rfl, rfl, rfl, rfl, rfl, rfl, rfl, rfl⟩
  · exact ⟨rfl, ⟨rfl, rfl⟩, rfl, rfl, rfl, rfl, rfl, rfl, rfl, rfl⟩

/-- A scan applied (R147). -/
theorem put_applied {l : List Part} {s u : State} (h : Within l s u)
    (h1 : Part.scan ∈ l := by decide) (h2 : Part.row ∈ l := by decide) :
    Within l s { u with map := applyScan u.map } :=
  have k := applyScan_same u.map
  put_map h (h_mapEntry := .inr k.1) (h_scan := .inl h1) (h_row := .inl h2)
    (h_records := .inr k.2.1) (h_mapCopies := .inr k.2.2)

theorem put_begun {l : List Part} {s u : State} {n seg : Nat} {p : List Byte} (h : Within l s u)
    (hl : Part.scan ∈ l := by decide) : Within l s { u with map := beginScan n seg p u.map } :=
  put_map h (h_mapEntry := .inr rfl) (h_scan := .inl hl) (h_row := .inr rfl) (h_records := .inr ⟨rfl, rfl⟩)
    (h_mapCopies := .inr ⟨rfl, rfl, rfl, rfl, rfl, rfl, rfl, rfl⟩)

theorem scanOffered_within {f : Frame} {s : State} : Within scanParts s (scanOffered f s) := by
  unfold scanOffered
  dsimp only
  split
  · exact put_map .refl
  · split
    · split
      · exact put_map .refl
      · exact put_begun .refl
    · split
      · have h : Within scanParts s { s with map := { s.map with
            segs := s.map.segs.set (ix 3 f.chan) (some (payloadOf f)) } } := put_map .refl
        split
        · exact put_applied h
        · exact h
      · refine put_begun ?_
        refine Within.step ?_ occur_within
        exact put_applied .refl

theorem mapMotion_within {m : Motion} {s : State} : Within [.row, .mapCopies] s (mapMotion m s) :=
  put_map .refl

theorem mapGeometry_within {a b : Nat} {s : State} : Within [.mapCopies] s (mapGeometry a b s) :=
  put_map .refl

/-- What a hub mode report to the map may change (R148, R149, R156). -/
def mapModeParts : List Part := .row :: .mapCopies :: recordParts

theorem startRun_within {s : State} : Within mapModeParts s (startRun s) := by
  unfold startRun
  extract_lets r s1 m1 s2
  have h0 : Within mapModeParts s r.1 := Within.step .refl placeRecord_within
  have h1 : Within mapModeParts s s1 := by
    unfold s1
    split
    · exact h0
    · exact Within.step h0 gapRestart_within
  have h2 : Within mapModeParts s s2 := put_map h1
  exact put_map h2

theorem mapMode_within {m : HubMode} {s : State} : Within mapModeParts s (mapMode m s) := by
  unfold mapMode
  extract_lets m1 s1
  have h1 : Within mapModeParts s s1 := put_map .refl
  split
  · exact Within.step h1 startRun_within
  · exact put_map h1
  · refine Within.step ?_ closeGap_within
    exact put_map h1

/-! ### Travel -/

theorem stationReport_within {s : State} : Within stationParts s (stationReport s) := by
  unfold stationReport
  exact Within.step (Within.step .refl levelStation_within) mapStation_within

/-- The station moved. -/
theorem put_moved {l : List Part} {s u : State} {d : Int} (h : Within l s u)
    (hl : Part.position ∈ l := by decide) : Within l s { u with travel := moveStation d u.travel } :=
  put_travel h (h_travelParams := .inr rfl) (h_position := .inl hl) (h_motion := .inr ⟨rfl, rfl⟩)
    (h_widths := .inr ⟨rfl, rfl, rfl, rfl, rfl, rfl⟩)

theorem travelCount_within {n : Int} {s : State} :
    Within (.position :: stationParts) s (travelCount n s) := by
  unfold travelCount
  extract_lets x t
  have h : Within (.position :: stationParts) s t := put_travel .refl
  split
  · exact h
  · extract_lets d
    split
    · exact Within.step h occur_within
    · split
      · exact h
      · refine Within.step ?_ stationReport_within
        exact put_moved h

theorem motionReport_within {m : Motion} {s : State} : Within motionParts s (motionReport m s) := by
  unfold motionReport
  extract_lets s1 s2
  have h1 : Within motionParts s s1 := Within.step (Within.step .refl reviewAll_within) levelMotion_within
  have h2 : Within motionParts s s2 := by
    refine Within.step ?_ reportVoter_within
    exact Within.step h1 feedMotion_within
  exact Within.step h2 mapMotion_within

theorem enterMotion_within {m : Motion} {s : State} :
    Within (.motion :: motionParts) s (enterMotion m s) := by
  unfold enterMotion
  refine Within.step ?_ motionReport_within
  exact put_travel .refl

theorem applyClass_within {m : Motion} {s : State} :
    Within (.motion :: motionParts) s (applyClass m s) := by
  unfold applyClass
  split
  · exact .refl
  · split
    · exact .refl
    · exact enterMotion_within

theorem speedReport_within {n : Nat} {s : State} : Within voteParts s (speedReport n s) :=
  reportVoter_within

theorem travelSpeed_within {n : Int} {s : State} :
    Within (.motion :: motionParts) s (travelSpeed n s) := by
  unfold travelSpeed
  exact Within.step (Within.step .refl speedReport_within) applyClass_within

theorem travelSpeedStale_within {s : State} : Within (.motion :: motionParts) s (travelSpeedStale s) := by
  unfold travelSpeedStale
  exact Within.step (Within.step .refl speedReport_within) applyClass_within

theorem geometryReport_within {s : State} : Within widthParts s (geometryReport s) := by
  unfold geometryReport
  dsimp only
  exact Within.step (Within.step (Within.step .refl reviewAll_within) feedGeometry_within)
    mapGeometry_within

/-- The widths computed again. -/
theorem put_widths {l : List Part} {s u : State} (h : Within l s u) (hl : Part.widths ∈ l := by decide) :
    Within l s { u with travel := withWidths u.travel } :=
  put_travel h (h_travelParams := .inr rfl) (h_position := .inr ⟨rfl, rfl, rfl⟩)
    (h_motion := .inr ⟨rfl, rfl⟩) (h_widths := .inl hl)

theorem recomputeGeometry_within {s : State} : Within (.widths :: widthParts) s (recomputeGeometry s) := by
  unfold recomputeGeometry
  dsimp only
  split
  · exact .refl
  · refine Within.step ?_ geometryReport_within
    exact put_widths .refl

theorem extension_within {d : Side} {n : Int} {s : State} :
    Within (.widths :: widthParts) s (extension d n s) := by
  unfold extension
  refine Within.step ?_ recomputeGeometry_within
  cases d <;> exact put_travel .refl

theorem travelWritten_within {p : TravelParams} {s : State} :
    Within (.travelParams :: .widths :: widthParts) s (travelWritten p s) := by
  unfold travelWritten
  refine Within.step ?_ recomputeGeometry_within
  exact put_travel .refl

/-! ### Intake -/

theorem evalSlotStale_within {s : State} : Within logParts s (evalSlotStale s) := setLevelKind_within

theorem tellUpdate_within {slot : Nat} {v : Int} {q : Quality} {s : State} :
    Within consumerParts s (tellUpdate slot v q s) := by
  unfold tellUpdate
  split
  · exact Within.step .refl travelCount_within
  · exact Within.step .refl travelSpeed_within
  · exact Within.step .refl (bothSides_within fun _ _ => levelUpdate_within)
  · exact Within.step .refl (bothSides_within fun _ _ => levelUpdate_within)
  · exact Within.step .refl (bothSides_within fun _ _ => levelUpdate_within)
  · exact Within.step .refl feedUpdate_within
  · exact Within.step .refl feedUpdate_within
  · exact Within.step .refl extension_within
  · exact Within.step .refl extension_within

theorem tellStale_within {slot : Nat} {s : State} : Within consumerParts s (tellStale slot s) := by
  unfold tellStale
  split
  · exact Within.step .refl travelSpeedStale_within
  · exact Within.step .refl (bothSides_within fun _ _ => levelStale_within)
  · exact Within.step .refl (bothSides_within fun _ _ => levelStale_within)
  · exact Within.step .refl (bothSides_within fun _ _ => levelStale_within)
  · exact Within.step .refl feedStale_within
  · exact Within.step .refl feedStale_within
  · exact .refl

theorem applyEntry_within {l : List Byte} {i : Fin 24} {s : State} :
    Within senseParts s (applyEntry l s i) := by
  unfold applyEntry
  extract_lets e
  split
  · exact Within.step .refl occur_within
  · extract_lets r
    refine Within.step (Within.step ?_ tellUpdate_within) evalSlotStale_within
    exact put_intake .refl

theorem senseOffered_within {f : Frame} {s : State} : Within senseParts s (senseOffered f s) := by
  unfold senseOffered
  refine Within.foldl _ (fun t i => ?_) s
  split
  · exact applyEntry_within
  · exact .refl

theorem slotExpires_within {i : Fin 9} {s : State} :
    Within (.slots :: consumerParts) s (slotExpires i s) := by
  unfold slotExpires
  refine Within.step (Within.step ?_ tellStale_within) evalSlotStale_within
  exact put_intake .refl

/-! ### Measurement -/

theorem put_line {l : List Part} {s u : State} {line : Nat} {f : LineVars → LineVars}
    (h : Within l s u) (hl : Part.lineStates ∈ l := by decide) : Within l s (modLine u line f) :=
  put_rmu h (h_refEntry := .inr rfl) (h_sensorTable := .inr (map_upd _ _ _ _ fun _ => rfl))
    (h_sweepList := .inr rfl) (h_lineStates := .inl hl) (h_counting := .inr ⟨rfl, rfl, rfl, rfl, rfl, rfl, rfl⟩)

/-- A count begun. -/
theorem put_count {l : List Part} {s u : State} {line place : Nat} {p : CountPhase} {r : Option Reading}
    (h : Within l s u) (hl : Part.counting ∈ l := by decide) :
    Within l s { u with rmu := beginCount line place p r u.rmu } :=
  put_rmu h (h_refEntry := .inr rfl) (h_sensorTable := .inr rfl) (h_sweepList := .inr rfl)
    (h_lineStates := .inr rfl) (h_counting := .inl hl)

theorem startSweep_within {s : State} : Within (.counting :: logParts) s (startSweep s) := by
  unfold startSweep
  split
  · refine Within.step ?_ setLevelKind_within
    exact put_rmu .refl
  · exact put_count .refl

theorem countPlace_within {n : Nat} {s : State} : Within (.counting :: logParts) s (countPlace n s) := by
  unfold countPlace
  split
  · exact put_count .refl
  · exact startSweep_within

theorem referenceEnds_within {n : Nat} {s : State} :
    Within (.counting :: logParts) s (referenceEnds n s) := by
  unfold referenceEnds
  dsimp only
  split
  · refine Within.step (Within.step ?_ setLevelKind_within) countPlace_within
    exact put_rmu .refl
  · split
    · refine Within.step ?_ countPlace_within
      exact put_rmu .refl
    · refine Within.step (Within.step ?_ setLevelKind_within) countPlace_within
      exact put_rmu .refl

theorem evalLineFailed_within {s : State} : Within logParts s (evalLineFailed s) := setLevelKind_within

theorem measurementEnds_within {c : Counting} {r : LineResult} {s : State} :
    Within countParts s (measurementEnds c r s) := by
  unfold measurementEnds
  split
  · refine Within.step (Within.step (Within.step ?_ evalLineFailed_within) lineReport_within)
      countPlace_within
    exact put_line .refl
  · refine Within.step (Within.step (Within.step ?_ evalLineFailed_within) lineReport_within)
      countPlace_within
    exact put_line .refl

theorem recordCount_within {c : Counting} {n : Nat} {s : State} :
    Within [.lineStates] s (recordCount c n s).1 := by
  unfold recordCount
  split
  · dsimp only
    exact put_line .refl
  · dsimp only
    exact put_line .refl

theorem firstEnds_within {c : Counting} {n : Nat} {s : State} :
    Within countParts s (firstEnds c n s) := by
  unfold firstEnds
  extract_lets r x
  have h : Within countParts s r.1 := Within.step .refl recordCount_within
  split
  · exact Within.step h countPlace_within
  · split
    · exact Within.step h measurementEnds_within
    · exact put_count h

theorem retryEnds_within {c : Counting} {n : Nat} {s : State} :
    Within countParts s (retryEnds c n s) := by
  unfold retryEnds
  extract_lets r x
  have h : Within countParts s r.1 := Within.step .refl recordCount_within
  split
  · exact Within.step h countPlace_within
  · exact Within.step h measurementEnds_within

theorem countEnds_within {c : Counting} {n : Nat} {s : State} : Within countParts s (countEnds c n s) := by
  unfold countEnds
  split
  · exact Within.step .refl referenceEnds_within
  · split
    · exact firstEnds_within
    · exact retryEnds_within

theorem endCount_within {w : Counting → Bool} {n : Nat} {s : State} :
    Within countParts s (endCount w n s) := by
  unfold endCount
  split
  · split
    · exact countEnds_within
    · exact .refl
  · exact .refl

theorem clearFailedLine_within {n : Nat} {s : State} :
    Within (.lineStates :: zoneParts) s (clearFailedLine n s) := by
  unfold clearFailedLine
  split
  · refine Within.step (Within.step ?_ evalLineFailed_within) lineReport_within
    exact put_line .refl
  · exact .refl

theorem sensorWritten_within {n : Nat} {e : SensorEntry} {s : State} :
    Within [.sensorTable, .lineStates] s (sensorWritten n e s) := put_rmu .refl

theorem referenceWritten_within {e : ReferenceEntry} {s : State} :
    Within (.refEntry :: .counting :: logParts) s (referenceWritten e s) := by
  unfold referenceWritten
  extract_lets old m t
  have h : Within (.refEntry :: .counting :: logParts) s t := put_rmu .refl
  split
  · exact h
  · refine Within.step ?_ startSweep_within
    exact put_rmu h

theorem sweepWritten_within {l : List Nat} {s : State} :
    Within (.sweepList :: .counting :: logParts) s (sweepWritten l s) := by
  unfold sweepWritten
  refine Within.step ?_ startSweep_within
  exact put_rmu .refl

end Sys2Proof.Machine
end

