-- ==== Sys2Proof/Laws/FramesD.lean ====
section
/-! SUPPORT. What the archive's operations, the link's operations, a change of hub mode and the service of
a request change. -/

namespace Sys2Proof.Machine

-- One theorem at a time: the package as one text then needs few threads.
set_option Elab.async false

/-! ### The model's tests in the statements' words -/

/-- The model's test of a filter entry is R11's. -/
theorem filterMatches_iff {f : Frame} {e : FilterEntry} : filterMatches f e = true ↔ Fits f e := by
  simp [filterMatches, Fits, and_assoc]

/-- No entry decides a frame that none matches. -/
theorem decidingEntry_eq_none {b : Bridge} {f : Frame} :
    decidingEntry b f = none ↔ ∀ i : Fin 24, ¬Fits f b.filters[i] := by
  simp [decidingEntry, List.find?_eq_none, ← filterMatches_iff]

/-- The first entry that matches decides. -/
theorem decidingEntry_eq_some {b : Bridge} {f : Frame} {i : Fin 24} (h : Decides b f i) :
    decidingEntry b f = some i := by
  unfold decidingEntry
  rw [List.find?_eq_some_iff_getElem]
  refine ⟨filterMatches_iff.2 h.1, i, by simp, by simp, fun j hj => ?_⟩
  have := h.2 ⟨j, by omega⟩ hj
  simpa [← filterMatches_iff] using this

/-- A test over the intake table, by index. -/
theorem any_toList_finRange (l : Vector IntakeRec 24) (p : IntakeRec → Bool) :
    l.toList.any p = (List.finRange 24).any fun i => p l[i] := by
  rw [Bool.eq_iff_iff]
  simp only [List.any_eq_true, List.mem_finRange, true_and]
  constructor
  · rintro ⟨x, hx, hp⟩
    obtain ⟨i, hi, rfl⟩ := List.mem_iff_getElem.1 hx
    exact ⟨⟨i, by simpa using hi⟩, by simpa using hp⟩
  · rintro ⟨i, hp⟩
    exact ⟨_, by simp, hp⟩

/-- The model's test for SLOT_STALE is R27's. -/
theorem anyStaleInUse_eq (x : Intake) : anyStaleInUse x = staleNamed x := by
  simp only [anyStaleInUse, staleNamed, inUse, any_toList_finRange]
  congr

/-! ### The archive -/

/-- The archive changed where its entry stays. -/
theorem put_archived {l : List Part} {s u : State} {f : Archive → Archive} (h : Within l s u)
    (hf : (f u.archive).stored = u.archive.stored) (hl : Part.archive ∈ l := by decide) :
    Within l s (modArchive u f) :=
  put_archive h (h_archiveEntry := .inr hf) (h_archive := .inl hl)

theorem evalArchiveKinds_within {s : State} : Within logParts s (evalArchiveKinds s) := by
  unfold evalArchiveKinds
  exact Within.step (Within.step .refl setLevelKind_within) setLevelKind_within

theorem enterFailed_within {s : State} : Within archiveParts s (enterFailed s) := by
  unfold enterFailed
  refine Within.step ?_ evalArchiveKinds_within
  exact put_archived .refl rfl

@[simp] theorem decideNext_stored (k : Nat) (a : Archive) : (decideNext k a).stored = a.stored := by
  unfold decideNext
  dsimp only
  split <;> rfl

@[simp] theorem enterSector_stored (k : Nat) (a : Archive) : (enterSector k a).stored = a.stored := by
  simp [enterSector]

/-- When the write position can enter a sector: it is ready and its erase is not still to begin. -/
theorem canEnter_iff {a : Archive} {j : Nat} :
    canEnter a j = true ↔ (∃ x, a.sectors[j]? = some x ∧ x.ready = true) ∧ a.eraseDue ≠ some j := by
  simp [canEnter, isReady, Option.any_eq_true]

theorem endSector_within {k : Nat} {s : State} : Within archiveParts s (endSector k s) := by
  unfold endSector
  extract_lets j
  split
  · split
    · exact put_archived .refl rfl
    · refine Within.step ?_ evalArchiveKinds_within
      exact put_archived .refl rfl
  · split
    · exact put_archived .refl (enterSector_stored j s.archive)
    · exact put_archived .refl rfl

theorem advanceTo_within {k w : Nat} {s : State} : Within archiveParts s (advanceTo k w s) := by
  unfold advanceTo
  split
  · exact endSector_within
  · exact put_archived .refl rfl

/-- Where the write position moves to, the stored entry stays. -/
theorem advanceTo_stored {k w : Nat} {s : State} :
    (advanceTo k w s).archive.stored = s.archive.stored :=
  (advanceTo_within (k := k) (w := w) (s := s)).toCalm.only .archiveEntry (by decide)

/-- A failed program moves the archive's write position to the next page. -/
theorem abandonPage_within {k w : Nat} {s : State} : Within archiveParts s (abandonPage k w s) :=
  advanceTo_within

theorem resumeAfterProgram_within {s : State} : Within [.archive] s (resumeAfterProgram s) := by
  unfold resumeAfterProgram
  split
  · exact .refl
  · exact put_archived .refl rfl

theorem takeRecord_within {s : State} : Within [.archive, .records] s (takeRecord s) := by
  unfold takeRecord
  split
  · refine only_of .refl (fun p hp => ?_) rfl rfl
    cases p <;> first
      | exact absurd (by decide) hp
      | simp [Part.same, modArchive]
  · exact .refl

theorem recordNotice_within {x : Nat × Record} {s : State} :
    Within [.ports, .notices, .archive] s (recordNotice s x) := by
  unfold recordNotice
  extract_lets f r
  have h : Within [.ports, .notices, .archive] s { s with bridge := r.1 } := put_offer .refl
  have h2 : Within [.ports, .notices, .archive] s { s with
      bridge := r.1
      log := { s.log with noticeCount := (s.log.noticeCount + 1) % 16 } } :=
    put_log (t := { s with bridge := r.1 }) h
  refine put_archive (t := { s with
      bridge := r.1
      log := { s.log with noticeCount := (s.log.noticeCount + 1) % 16 } }) h2
    (h_archiveEntry := .inr ?_)
  simp only [Part.same]
  split <;> rfl

theorem programCompletes_within {s : State} :
    Within (.notices :: programParts) s (programCompletes s) := by
  unfold programCompletes
  split
  · extract_lets records s1 s2
    have h1 : Within (.notices :: programParts) s s1 := by
      refine only_of .refl (fun p hp => ?_) rfl rfl
      cases p <;> first
        | exact absurd (by decide) hp
        | simp [Part.same, s1, recordProgrammed, modSector]
    have h2 : Within (.notices :: programParts) s s2 := by
      unfold s2
      split
      · exact Within.step h1 (Within.foldl _ (fun _ _ => recordNotice_within) _)
      · exact h1
    exact Within.step (Within.step h2 resumeAfterProgram_within) advanceTo_within
  · exact .refl

theorem programFails_within {s : State} : Within programParts s (programFails s) := by
  unfold programFails
  split
  · extract_lets a0 s1
    have h1 : Within programParts s s1 := by
      refine only_of .refl (fun p hp => ?_) rfl rfl
      cases p <;> first
        | exact absurd (by decide) hp
        | simp [Part.same, s1, a0]
    split
    · refine Within.step ?_ enterFailed_within
      exact put_archived (f := fun _ => (abandonPage _ _ s1).archive) h1 advanceTo_stored
    · exact Within.step (Within.step h1 resumeAfterProgram_within) abandonPage_within
  · exact .refl

theorem issueErase_within {j : Nat} {s : State} : Within [.archive, .flash, .marks] s (issueErase j s) := by
  refine only_of .refl (fun p hp => ?_) rfl rfl
  cases p <;> first
    | exact absurd (by decide) hp
    | simp [Part.same, issueErase, modArchive, modSector]

theorem formatEnds_within {s : State} : Within archiveParts s (formatEnds s) := by
  unfold formatEnds
  refine Within.step ?_ evalArchiveKinds_within
  exact put_archived .refl (by simp)

theorem eraseCompletes_within {s : State} : Within (.flash :: archiveParts) s (eraseCompletes s) := by
  unfold eraseCompletes
  split
  · refine put_archived (u := { s with flash := _ }) ?_ rfl
    exact put_flash .refl
  · rename_i j _
    extract_lets s1
    have h1 : Within (.flash :: archiveParts) s s1 := by
      refine put_archived (u := { s with flash := _ }) ?_ rfl
      exact put_flash .refl
    split
    · split
      · exact put_archived h1 rfl
      · exact Within.step h1 formatEnds_within
    · split
      · exact put_archived h1 (enterSector_stored _ _)
      · exact h1
  · exact .refl

theorem eraseFails_within {s : State} : Within archiveParts s (eraseFails s) := by
  unfold eraseFails
  extract_lets s1
  have h1 : Within archiveParts s s1 := put_archived .refl rfl
  split
  · exact put_archived h1 rfl
  · split
    · split
      · exact Within.step h1 enterFailed_within
      · exact put_archived h1 rfl
    · exact .refl

theorem startWaiting_within {j : Nat} {s : State} : Within archiveParts s (startWaiting j s) := by
  unfold startWaiting
  split
  · exact put_archived .refl rfl
  · refine Within.step ?_ evalArchiveKinds_within
    exact put_archived .refl rfl

theorem scanEnds_within {s : State} : Within archiveParts s (scanEnds s) := by
  unfold scanEnds
  extract_lets found numbers s1
  have h1 : Within archiveParts s s1 := put_archived .refl rfl
  split
  · exact put_archived h1 (by simp [modSector])
  · exact Within.step h1 startWaiting_within
  · exact h1

theorem startFormat_within {s : State} : Within archiveParts s (startFormat s) := by
  unfold startFormat
  refine Within.step ?_ evalArchiveKinds_within
  refine put_archived .refl ?_
  dsimp only
  split <;> rfl

theorem archiveWritten_within {e : ArchiveEntry} {s : State} :
    Within (.archiveEntry :: archiveParts) s (archiveWritten e s) := by
  unfold archiveWritten
  extract_lets s1
  have h1 : Within (.archiveEntry :: archiveParts) s s1 := put_archive .refl
  split
  · refine Within.step ?_ evalArchiveKinds_within
    exact put_archived h1 rfl
  · exact h1

/-! ### The link -/

theorem Within.toOnly {l m : List Part} {s t : State} (h : Within l s t)
    (hm : ∀ p ∈ l, p ∈ m := by decide) : Only m s t := h.only.mono hm

/-- One more operation after another, by what it changes. -/
theorem Only.step {l m : List Part} {s t u : State} (h : Only l s t) (k : Only m t u)
    (hm : ∀ p ∈ m, p ∈ l := by decide) : Only l s u := h.trans (k.mono hm)

/-- A calm change of one part of the bridge, by what it changes. -/
theorem calm_of {l : List Part} {s t : State} (h : Only l s t) (hm : t.mgmt = s.mgmt)
    (hl : t.log = s.log) : Calm l s t :=
  ⟨h, by rw [hm], by simp [Part.same, hl], fun _ => by rw [hm]⟩

theorem occur_calm {k : CondKind} {s : State} : Calm logParts s (occur k s) := occur_within.toCalm

theorem setLevelKind_calm {k : CondKind} {b : Bool} {s : State} :
    Calm logParts s (setLevelKind k b s) := setLevelKind_within.toCalm

theorem onPort_calm {p : Port} {f : PortRec → PortRec} {s : State} : Calm [.ports] s (onPort p f s) := by
  refine calm_of (fun q hq => ?_) rfl rfl
  cases p <;> cases q <;> first
    | exact absurd (by decide) hq
    | simp [Part.same, onPort, modPort]

/-- The request's end leaves the rest of the Management Engine alone. -/
theorem releaseReply_same (m : Mgmt) :
    (releaseReply m).mode = m.mode ∧ (releaseReply m).jobClock = m.jobClock ∧
      (releaseReply m).second = m.second ∧ (releaseReply m).stopAsked = m.stopAsked ∧
      (releaseReply m).lastBusy = m.lastBusy := by
  unfold releaseReply replyDone
  repeat' split
  all_goals exact ⟨rfl, rfl, rfl, rfl, rfl⟩

theorem discardWaiting_calm {p : Port} {s : State} :
    Calm [.request, .notices, .targetStates] s (discardWaiting p s) := by
  have hr := releaseReply_same s.mgmt
  refine ⟨fun q hq => ?_, ?_, rfl, fun _ => ?_⟩
  · cases q <;> first
      | exact absurd (by decide) hq
      | (simp only [Part.same, discardWaiting]; done)
      | (simp only [Part.same, discardWaiting]
         rw [Vector.map_map]
         congr 1
         funext x
         simp only [Function.comp, sendIfWaiting]
         split <;> rfl)
      | (simp [Part.same, discardWaiting]; done)
      | (simp only [Part.same, discardWaiting]
         split <;> simp [hr])
  · simp only [discardWaiting]
    split <;> simp [hr]
  · simp only [discardWaiting]
    split <;> simp [hr]

theorem enterRetrain_calm {p : Port} {s : State} :
    Calm (.request :: .targetStates :: logParts) s (enterRetrain p s) := by
  unfold enterRetrain
  exact Calm.step (Calm.step (Calm.step .refl onPort_calm) discardWaiting_calm) occur_calm

theorem errorActs_calm {p : Port} {s : State} :
    Calm (.request :: .targetStates :: logParts) s (errorActs p s) := by
  unfold errorActs
  dsimp only
  split
  · exact onPort_calm.mono (by decide)
  · split
    · exact enterRetrain_calm
    · exact onPort_calm.mono (by decide)
  · exact .refl
  · exact .refl

theorem portError_calm {p : Port} {s : State} :
    Calm (.request :: .targetStates :: logParts) s (portError p s) := by
  unfold portError
  exact Calm.step (Calm.step .refl onPort_calm) errorActs_calm

theorem syncReceived_calm {p : Port} {s : State} :
    Calm (.request :: .targetStates :: logParts) s (syncReceived p s) := by
  unfold syncReceived
  dsimp only
  split
  · split
    · exact .refl
    · exact portError_calm
  · exact Calm.step (Calm.step .refl onPort_calm) enterRetrain_calm
  · exact onPort_calm.mono (by decide)
  · exact Calm.step (Calm.step .refl onPort_calm) setLevelKind_calm

theorem attemptEnds_calm {p : Port} {s : State} : Calm logParts s (attemptEnds p s) := by
  unfold attemptEnds
  dsimp only
  split
  · split
    · exact onPort_calm.mono (by decide)
    · exact Calm.step (Calm.step .refl onPort_calm) setLevelKind_calm
  all_goals exact onPort_calm.mono (by decide)

theorem forwardFrame_calm {p : Port} {f : Frame} {m : Option GuardKind} {s : State} :
    Calm logParts s (forwardFrame p f m s) := by
  unfold forwardFrame
  dsimp only
  split
  · exact onPort_calm.mono (by decide)
  · split
    · exact onPort_calm.mono (by decide)
    · exact Calm.step (Calm.step .refl onPort_calm) occur_calm

theorem filterFrame_calm {p : Port} {f : Frame} {s : State} :
    Calm (.filters :: logParts) s (filterFrame p f s) := by
  unfold filterFrame
  split
  · exact forwardFrame_calm.mono (by decide)
  · rename_i i _
    extract_lets hit
    have h : Calm (.filters :: logParts) s hit := by
      refine calm_of (fun q hq => ?_) rfl rfl
      cases q <;> first
        | exact absurd (by decide) hq
        | simp [Part.same, hit, hitEntry]
    split
    · exact Calm.step h forwardFrame_calm
    · exact h
    · split
      · exact Calm.step h occur_calm
      · exact Calm.step h forwardFrame_calm

theorem routeFrame_calm {p : Port} {f : Frame} {s : State} :
    Calm (.filters :: logParts) s (routeFrame p f s) := by
  unfold routeFrame
  split
  · exact filterFrame_calm
  · split
    · exact .refl
    · exact filterFrame_calm

theorem closeGuard_calm {g : GuardKind} {s : State} : Calm logParts s (closeGuard g s) := by
  unfold closeGuard
  extract_lets n b
  have h : Calm logParts s { s with bridge := { b with
      portA := clearMarked g b.portA, portB := clearMarked g b.portB } } := by
    refine calm_of (fun q hq => ?_) rfl rfl
    cases q <;> first
      | exact absurd (by decide) hq
      | simp [Part.same, b]
  exact Calm.step h occurTimes_within.toCalm

theorem foldl_calm {α : Type} {l : List Part} {f : State → α → State} (xs : List α)
    (hf : ∀ t x, Calm l t (f t x)) (s : State) : Calm l s (xs.foldl f s) := by
  induction xs generalizing s with
  | nil => exact .refl
  | cons x xs ih => exact (hf s x).trans (ih (f s x))

theorem closeGuards_calm {s : State} : Calm logParts s (closeGuards s) := by
  refine foldl_calm _ (fun t g => ?_) s
  split
  · exact closeGuard_calm
  · exact .refl

theorem waiterAdmitted_calm {w : Waiter} {s : State} :
    Calm [.request, .notices, .targetStates] s (waiterAdmitted w s) := by
  have hr := releaseReply_same s.mgmt
  unfold waiterAdmitted
  split
  · refine ⟨fun q hq => ?_, hr.1, rfl, fun _ => hr.2.2.2.1⟩
    cases q <;> first
      | exact absurd (by decide) hq
      | simp [Part.same, hr]
  · refine ⟨fun q hq => ?_, rfl, rfl, fun _ => rfl⟩
    cases q <;> first
      | exact absurd (by decide) hq
      | simp [Part.same]
  · rename_i t _
    have h : Within [.request, .notices, .targetStates] s
        { s with disp := modTarget s.disp t markSent } := put_target .refl fun x => rfl
    exact h.toCalm

theorem admitWaiting_calm {p : Port} {s : State} :
    Calm [.ports, .request, .notices, .targetStates] s (admitWaiting p s) := by
  unfold admitWaiting
  split
  · split
    · exact Calm.step (Calm.step .refl onPort_calm) waiterAdmitted_calm
    · exact .refl
  · exact .refl

/-! ### Hub modes and requests -/

theorem setStop_only {b : Bool} {s : State} :
    Only [.stopAsked] s { s with mgmt := { s.mgmt with stopAsked := b } } := by
  intro q hq
  cases q <;> first
    | exact absurd (by decide) hq
    | simp [Part.same]

theorem runEntered_only {s : State} : Only logParts s (runEntered s) := by
  unfold runEntered
  extract_lets s1
  split
  · exact Only.step closeGuards_calm.only setStop_only
  · exact closeGuards_calm.only

theorem setHubMode_only {m : HubMode} {s : State} : Only modeParts s (setHubMode m s) := by
  unfold setHubMode
  extract_lets old m0 s1 s2 s3
  have h0 : Only modeParts s { s with mgmt := { s.mgmt with mode := m } } := by
    intro q hq
    cases q <;> first
      | exact absurd (by decide) hq
      | simp [Part.same]
  have h1 : Only modeParts s s1 := Only.step h0 reviewAll_within.only
  have h2 : Only modeParts s s2 := Only.step (Only.step h1 voterMode_within.only) levelMode_within.only
  have h3 : Only modeParts s s3 :=
    Only.step (Only.step (Only.step h2 feedHubMode_within.only) dispatcherMode_within.only)
      mapMode_within.only
  split
  · exact Only.step h3 runEntered_only
  · exact h3

/-- Outside an entry into RUN, a change of hub mode moves the bridge by own frames alone. -/
theorem setHubMode_offers {m : HubMode} {s : State} (h : m ≠ .run) :
    OwnOffers s.bridge (setHubMode m s).bridge := by
  unfold setHubMode
  extract_lets old m0 s1 s2 s3
  have h1 : OwnOffers s.bridge s1.bridge :=
    (reviewAll_within (s := { s with mgmt := { s.mgmt with mode := m } })).offers
  have h2 : OwnOffers s.bridge s2.bridge :=
    (h1.trans voterMode_within.offers).trans levelMode_within.offers
  have h3 : OwnOffers s.bridge s3.bridge :=
    ((h2.trans feedHubMode_within.offers).trans dispatcherMode_within.offers).trans mapMode_within.offers
  rw [if_neg h]
  exact h3

theorem settle_offers {s : State} : OwnOffers s.bridge (settle s).bridge := by
  unfold settle
  split
  · extract_lets m t
    split
    · exact setHubMode_offers (s := t) (by decide)
    · exact .refl _
  · exact .refl _

theorem settle_only {s : State} : Only modeParts s (settle s) := by
  unfold settle
  split
  · extract_lets m t
    have h : Only modeParts s t := Only.step (Only.refl _ s) setStop_only
    split
    · exact Only.step h setHubMode_only
    · exact h
  · exact Only.refl _ _

/-- With no FAULTSTOP request standing, settling changes nothing. -/
theorem settle_of_clear {s : State} (h : s.mgmt.stopAsked = false) : settle s = s := by
  simp [settle, h]

theorem offerReply_only {r : Request} {c : ReplyCode} {x : ReplyFields} {s : State} :
    Only answerParts s (offerReply r c x s) := by
  have h : ∀ t : State, ∀ m : Mgmt, (t.mgmt.mode = m.mode ∧ t.mgmt.jobClock = m.jobClock ∧
      t.mgmt.second = m.second ∧ t.mgmt.stopAsked = m.stopAsked) →
      Only [.request] t { t with mgmt := m } := by
    intro t m hm q hq
    cases q <;> first
      | exact absurd (by decide) hq
      | simp [Part.same, hm]
  have hb : ∀ t : State, Only [.request] t (noteBusy r.code c t) := by
    intro t
    unfold noteBusy
    split
    · exact h t _ ⟨rfl, rfl, rfl, rfl⟩
    · exact Only.refl _ _
  have ho : Only [.ports] s { s with bridge := (offerOwn s.bridge
      (replyFrame s.bridge.ownNode r.code r.seq r.src c x)).1 } :=
    (put_offer (l := [.ports]) .refl).only
  unfold offerReply
  extract_lets f o t
  have ht : Only answerParts s t := Only.step (Only.step (Only.refl _ s) ho) (hb _)
  refine Only.step ht (h t _ ?_)
  split
  · exact ⟨rfl, rfl, rfl, rfl⟩
  · unfold replyDone
    repeat' split
    all_goals exact ⟨rfl, rfl, rfl, rfl⟩

theorem answer_only {a : Answer} {s : State} : Only answerParts s (answer a s) := by
  unfold answer
  split
  · exact offerReply_only
  · exact Only.refl _ _

theorem begin_only {code : Nat} {seq : Seq} {s : State} : Only [.request] s (begin code seq s) := by
  intro q hq
  cases q <;> first
    | exact absurd (by decide) hq
    | simp [Part.same, begin]

/-- A request served from a ready state whose body asks for no FAULTSTOP: the body's effect and the offer
of its answer, and nothing else (R174). -/
theorem serve_ready {code : Nat} {seq : Seq} {body : State → State × Answer} {s : State} (h : Ready s)
    (hb : (body (begin code seq s)).1.mgmt.stopAsked = false) :
    serve code seq body s = answer (body (begin code seq s)).2 (body (begin code seq s)).1 := by
  have hs : ∀ t : State, ∀ a, t.mgmt.stopAsked = false → (answer a t).mgmt.stopAsked = false := by
    intro t a ht
    have := (answer_only (a := a) (s := t)) .stopAsked (by decide)
    exact this.trans ht
  unfold serve
  simp only [h.1, Option.isSome_none, Bool.false_eq_true, if_false, settle_of_clear hb, ite_self]
  exact settle_of_clear (hs _ _ hb)

/-- A request served from a ready state changes what its body and its answer change. -/
theorem serve_only {l : List Part} {code : Nat} {seq : Seq} {body : State → State × Answer} {s : State}
    (h : Ready s) (hb : (body (begin code seq s)).1.mgmt.stopAsked = false)
    (ho : Only l (begin code seq s) (body (begin code seq s)).1)
    (hl : ∀ p ∈ answerParts, p ∈ l := by decide) : Only l s (serve code seq body s) := by
  rw [serve_ready h hb]
  have hr : ∀ p ∈ [Part.request], p ∈ l := fun p hp => hl p (by
    simp only [List.mem_singleton] at hp
    subst hp
    decide)
  exact ((begin_only.mono hr).trans ho).trans (answer_only.mono hl)

end Sys2Proof.Machine
end

