-- ==== Sys2Proof/Laws/Service.lean ====
section
/-! SUPPORT. How a command's frame follows from the frame of its operation: for an event, for an event
that needs its condition, and for a request with its reply. -/

namespace Sys2Proof.Machine

-- One theorem at a time: the package as one text then needs few threads.
set_option Elab.async false

theorem settle_quiet {s : State} (h : Quiet s) : settle s = s := settle_of_clear h.1

/-- What stands in a list stands in it with more parts behind. -/
theorem Only.more {l m : List Part} {s t : State} (h : Only l s t) : Only (l ++ m) s t :=
  h.mono fun _ hp => List.mem_append_left _ hp

theorem Only.behind {l m : List Part} {s t : State} (h : Only m s t) : Only (l ++ m) s t :=
  h.mono fun _ hp => List.mem_append_right _ hp

/-- No change of hub mode but an entry into RUN leaves a FAULTSTOP request where there was none. -/
theorem setHubMode_settled {m : HubMode} {s : State} (hm : m ≠ .run) (h : s.mgmt.stopAsked = false) :
    (setHubMode m s).mgmt.stopAsked = false ∧ (setHubMode m s).mgmt.mode = m := by
  unfold setHubMode
  extract_lets old m0 s1 s2 s3
  rw [if_neg hm]
  let s0 : State := { s with mgmt := { s.mgmt with mode := m } }
  have h1 : Calm zoneParts s0 s1 := reviewAll_within.toCalm
  have h2 : Calm modeParts s0 s2 :=
    Calm.step (Calm.step (h1.mono (by decide)) voterMode_within.toCalm) levelMode_within.toCalm
  have h3 : Calm modeParts s0 s3 :=
    Calm.step (Calm.step (Calm.step h2 feedHubMode_within.toCalm) dispatcherMode_within.toCalm)
      mapMode_within.toCalm
  exact ⟨(h3.stop (.inl hm)).trans h, h3.mode⟩

/-- Settling leaves no FAULTSTOP request. -/
theorem settle_settled {s : State} : (settle s).mgmt.stopAsked = false := by
  unfold settle
  split
  · extract_lets m t
    split
    · exact (setHubMode_settled (s := t) (by decide) rfl).1
    · rfl
  · rename_i h
    exact Bool.eq_false_iff.mpr h

/-- Settling keeps the hub mode, or enters FAULTSTOP from RUN where that was asked for. -/
theorem settle_mode {u : State} :
    ((settle u).mgmt.mode = u.mgmt.mode ∧ (u.mgmt.mode ≠ .run ∨ u.mgmt.stopAsked = false)) ∨
      (u.mgmt.mode = .run ∧ (settle u).mgmt.mode = .faultstop) := by
  unfold settle
  split
  · extract_lets m t
    split
    · rename_i h
      exact .inr ⟨h, (setHubMode_settled (s := t) (by decide) rfl).2⟩
    · rename_i h
      exact .inl ⟨rfl, .inl h⟩
  · rename_i h
    exact .inl ⟨rfl, .inr (Bool.eq_false_iff.mpr h)⟩

/-- A quiet state is one from which no command's settling enters FAULTSTOP. -/
theorem Quiet.notStopped {s t : State} (h : Quiet s) : NotStopped s t := ⟨h.1, .inl h.2⟩

/-- A calm operation whose settling has not stopped the hub has left no FAULTSTOP request. -/
theorem NotStopped.clear {l : List Part} {s u : State} (hw : Calm l s u) (h : NotStopped s (settle u)) :
    u.mgmt.stopAsked = false := by
  have out : CannotStop s → u.mgmt.stopAsked = false := fun k => (hw.stop k).trans h.1
  rcases h.2 with k | k
  · exact out k
  · rcases settle_mode (u := u) with ⟨-, m | m⟩ | ⟨m, n⟩
    · exact out (.inl (hw.mode ▸ m))
    · exact m
    · rw [← hw.mode, m, n] at k
      cases k

/-- The hub mode after a calm operation and its settling. -/
theorem Calm.settle_mode {l : List Part} {s u : State} (hw : Calm l s u) :
    (settle u).mgmt.mode = s.mgmt.mode ∨ (s.mgmt.mode = .run ∧ (settle u).mgmt.mode = .faultstop) := by
  rw [← hw.mode]
  exact Machine.settle_mode.imp And.left id

/-- An event completes as its operation does. -/
theorem completes_of_proceed {c : Instr} {l : List Part} {s u : State} {kept post : State → Prop}
    (hc : exec c s = proceed u) (hw : Calm l s u) (hk : ∀ t, Only modeParts u t → kept t)
    (hp : StopSettled s → StopSettled u → post u) : Completes c l s kept post :=
  ⟨settle u, hc, hk _ settle_only, hw.only.more.trans (Only.behind settle_only), hw.settle_mode,
    fun q => by
      have hu := q.clear hw
      rw [settle_of_clear hu]
      exact ⟨hw.only, hp q.1 hu⟩⟩

theorem whenever_true {b : Bool} {f : State → State} {s : State} (h : b = true) :
    whenever b f s = proceed (f s) := by simp [whenever, h]

theorem whenever_false {b : Bool} {f : State → State} {s : State} (h : b = false) :
    whenever b f s = .next s := by simp [whenever, h]

/-- An event whose operation asks for no FAULTSTOP ends as the operation leaves the state. -/
theorem proceed_clear {s : State} (h : s.mgmt.stopAsked = false) : proceed s = .next s := by
  simp [proceed, settle_of_clear h]

/-! ### Requests -/

theorem noteBusy_request {code : Nat} {c : ReplyCode} {s : State} :
    (noteBusy code c s).mgmt.request = s.mgmt.request ∧
      (noteBusy code c s).mgmt.waitingReply = s.mgmt.waitingReply ∧
      (noteBusy code c s).bridge = s.bridge ∧
      (noteBusy code c s).mgmt.lastBusy = (if c = .busy then code else s.mgmt.lastBusy) := by
  unfold noteBusy
  split <;> exact ⟨rfl, rfl, rfl, rfl⟩

/-- What the offer of a plain request's reply leaves. -/
theorem offerReply_replied {code : Nat} {seq : Seq} {c : ReplyCode} {x : ReplyFields} {s u : State}
    (hr : u.mgmt.request = some ⟨code, seq.val, s.bridge.consoleNode, .plain⟩)
    (hw : u.mgmt.waitingReply = s.mgmt.waitingReply) (hl : u.mgmt.lastBusy = s.mgmt.lastBusy) :
    RepliedFrom u.bridge code seq c x s
      (offerReply ⟨code, seq.val, s.bridge.consoleNode, .plain⟩ c x u) := by
  unfold RepliedFrom offerReply
  dsimp only
  obtain ⟨h1, h2, h3, h4⟩ := noteBusy_request (code := code) (c := c) (s := { u with bridge :=
    (offerOwn u.bridge (replyFrame u.bridge.ownNode code seq.val s.bridge.consoleNode c x)).1 })
  refine ⟨h3, ?_, ?_, ?_⟩
  · split
    · rw [h1]; exact hr
    · unfold replyDone
      rw [h1]
      simp [hr]
  · split
    · rfl
    · unfold replyDone
      rw [h1]
      simp [hr, h2, hw]
  · split
    · exact h4.trans (by simp [hl])
    · unfold replyDone
      rw [h1]
      simp [hr, h4, hl]

/-- The settlings of a request's service have not stopped the hub: its body has left no FAULTSTOP
request. -/
theorem NotStopped.clear_serve {l : List Part} {code : Nat} {rc : ReplyCode} {x : ReplyFields}
    {s u : State} (hw : Calm l s u)
    (h : NotStopped s (settle (answer (.reply rc x) (if code = runCode then u else settle u)))) :
    u.mgmt.stopAsked = false := by
  have am : ∀ v : State, (answer (.reply rc x) v).mgmt.mode = v.mgmt.mode :=
    fun v => answer_only (a := .reply rc x) (s := v) .hubMode (by decide)
  have as : ∀ v : State, (answer (.reply rc x) v).mgmt.stopAsked = v.mgmt.stopAsked :=
    fun v => answer_only (a := .reply rc x) (s := v) .stopAsked (by decide)
  rcases h.2 with k | k
  · exact (hw.stop k).trans h.1
  · rw [← hw.mode] at k
    have out : s.mgmt.mode ≠ .run → u.mgmt.stopAsked = false := fun m => (hw.stop (.inl m)).trans h.1
    split at k
    · rcases settle_mode (u := answer (.reply rc x) u) with ⟨-, m | m⟩ | ⟨m, n⟩
      · exact out (by rw [← hw.mode, ← am]; exact m)
      · rw [← as]; exact m
      · rw [n, ← am, m] at k
        cases k
    · have e : settle (answer (.reply rc x) (settle u)) = answer (.reply rc x) (settle u) :=
        settle_of_clear ((as _).trans settle_settled)
      rw [e, am] at k
      rcases settle_mode (u := u) with ⟨-, m | m⟩ | ⟨m, n⟩
      · exact out (hw.mode ▸ m)
      · exact m
      · rw [n, m] at k
        cases k

/-- The hub mode after a request's service. -/
theorem serve_mode {code : Nat} {rc : ReplyCode} {x : ReplyFields} {u : State} :
    let t := settle (answer (.reply rc x) (if code = runCode then u else settle u))
    t.mgmt.mode = u.mgmt.mode ∨ (u.mgmt.mode = .run ∧ t.mgmt.mode = .faultstop) := by
  have am : ∀ v : State, (answer (.reply rc x) v).mgmt.mode = v.mgmt.mode :=
    fun v => answer_only (a := .reply rc x) (s := v) .hubMode (by decide)
  dsimp only
  split
  · rw [← am u]
    exact settle_mode.imp And.left id
  · have e : settle (answer (.reply rc x) (settle u)) = answer (.reply rc x) (settle u) :=
      settle_of_clear
        ((answer_only (a := .reply rc x) (s := settle u) .stopAsked (by decide)).trans settle_settled)
    rw [e, am]
    exact settle_mode.imp And.left id

/-- A request completes as its body does, with the reply offered behind it. -/
theorem completes_of_served {c : Instr} {code : Nat} {seq : Seq} {body : State → State × Answer}
    {l : List Part} {s u : State} {rc : ReplyCode} {x : ReplyFields} {kept post : State → Prop}
    (hc : exec c s = .next (serve code seq body s)) (hready : Ready s)
    (hb : body (begin code seq s) = (u, .reply rc x)) (hw : Calm l (begin code seq s) u)
    (hq : Part.request ∉ l)
    (hk : ∀ t, Only (answerParts ++ modeParts) u t → kept t)
    (hp : StopSettled u → ∀ t, Only answerParts u t → RepliedFrom u.bridge code seq rc x s t → post t) :
    Completes c (answerParts ++ l) s kept post := by
  have hs : serve code seq body s =
      settle (answer (.reply rc x) (if code = runCode then u else settle u)) := by
    simp [serve, hready.1, hb]
  have h1 : Only (answerParts ++ modeParts) u
      (answer (.reply rc x) (if code = runCode then u else settle u)) := by
    refine Only.trans (t := if code = runCode then u else settle u) ?_ (Only.more answer_only)
    split
    · exact Only.refl _ _
    · exact Only.behind settle_only
  have h2 : Only (answerParts ++ modeParts) u (serve code seq body s) := by
    rw [hs]
    exact h1.trans (Only.behind settle_only)
  have hbeg : Only answerParts s (begin code seq s) := begin_only.mono (by decide)
  have hm : u.mgmt.mode = s.mgmt.mode := hw.mode
  refine ⟨_, hc, hk _ h2, ?_, ?_, fun q => ?_⟩
  · refine (Only.more (Only.more hbeg)).trans ((Only.more (Only.behind hw.only)).trans ?_)
    refine h2.mono fun p hp => ?_
    rcases List.mem_append.mp hp with hp | hp
    · exact List.mem_append_left _ (List.mem_append_left _ hp)
    · exact List.mem_append_right _ hp
  · rw [hs, ← hm]
    exact serve_mode
  · have qb : NotStopped (begin code seq s) (serve code seq body s) := ⟨q.1, q.2.imp (·.imp id id) id⟩
    have qu : u.mgmt.stopAsked = false := NotStopped.clear_serve (code := code) (rc := rc) (x := x) hw
      (by rw [← hs]; exact qb)
    have e : serve code seq body s = answer (.reply rc x) u := by
      have := serve_ready (code := code) (seq := seq) (body := body) hready (by rw [hb]; exact qu)
      rw [this, hb]
    have hreq := hw.only .request hq
    have e2 : answer (.reply rc x) u = offerReply ⟨code, seq.val, s.bridge.consoleNode, .plain⟩ rc x u := by
      unfold answer
      rw [hreq.1]
      rfl
    refine ⟨?_, ?_⟩
    · rw [e]
      exact (Only.more hbeg).trans ((Only.behind hw.only).trans (Only.more answer_only))
    · refine hp qu _ (by rw [e]; exact answer_only) ?_
      rw [e, e2]
      exact offerReply_replied hreq.1 hreq.2.1 hreq.2.2

/-! ### Replies, whatever the severities -/

/-- A request but RUN, served from a ready state: its body's effect, the FAULTSTOP entry that this may
bring, and the offer of its answer. -/
theorem serve_settled {code : Nat} {seq : Seq} {body : State → State × Answer} {s u : State} {a : Answer}
    (hready : Ready s) (hcode : code ≠ runCode) (hb : body (begin code seq s) = (u, a)) :
    serve code seq body s = answer a (settle u) := by
  have h : (answer a (settle u)).mgmt.stopAsked = false :=
    ((answer_only (a := a) (s := settle u)) .stopAsked (by decide)).trans settle_settled
  simp [serve, hready.1, hb, hcode, settle_of_clear h]

/-- A request but RUN is served as its body says, its reply the last own frame it sends. -/
theorem serves_of_served {c : Instr} {code : Nat} {seq : Seq} {body : State → State × Answer}
    {l : List Part} {s u : State} {rc : ReplyCode} {x : ReplyFields} {kept post : State → Prop}
    (hr : requestOf c = some (code, seq)) (hc : exec c s = .next (serve code seq body s))
    (hready : Ready s) (hcode : code ≠ runCode) (hb : body (begin code seq s) = (u, .reply rc x))
    (hw : Within l (begin code seq s) u) (hq : Part.request ∉ l)
    (hk : ∀ t, Only (answerParts ++ modeParts) u t → kept t)
    (hp : StopSettled u → ∀ t, Only answerParts u t → post t) :
    Serves c l rc x s kept post := by
  have hreq : (settle u).mgmt.request = some ⟨code, seq.val, s.bridge.consoleNode, .plain⟩ ∧
      (settle u).mgmt.waitingReply = s.mgmt.waitingReply ∧
      (settle u).mgmt.lastBusy = s.mgmt.lastBusy := by
    have h1 := (hw.only .request hq)
    have h2 := settle_only (s := u) .request (by decide)
    exact ⟨h2.1.trans h1.1, h2.2.1.trans h1.2.1, h2.2.2.trans h1.2.2⟩
  have hrep : Replied code seq rc x s (serve code seq body s) := by
    rw [serve_settled hready hcode hb]
    unfold answer
    rw [hreq.1]
    exact ⟨_, hw.offers.trans settle_offers, offerReply_replied hreq.1 hreq.2.1 hreq.2.2⟩
  obtain ⟨t, ht, hk', ho, hm, hq'⟩ := completes_of_served (kept := kept) (post := post) hc hready hb
    hw.toCalm hq hk (fun q t ho _ => hp q t ho)
  refine ⟨code, seq, hr, t, ht, ⟨?_, hk'⟩, ho, hm, hq'⟩
  have e : t = serve code seq body s := by
    have := ht.symm.trans hc
    injection this
  rw [e]
  exact hrep

/-- A request whose body sends nothing and asks for no FAULTSTOP answers at once. -/
theorem answersWith_of_served {c : Instr} {code : Nat} {seq : Seq} {body : State → State × Answer}
    {l : List Part} {s u : State} {rc : ReplyCode} {x : ReplyFields} {post : State → Prop}
    (hr : requestOf c = some (code, seq)) (hc : exec c s = .next (serve code seq body s))
    (hready : Ready s) (hb : body (begin code seq s) = (u, .reply rc x))
    (ho : Only l (begin code seq s) u) (hq : Part.request ∉ l) (hs : u.mgmt.stopAsked = false)
    (hbr : u.bridge = withTables s.bridge u.bridge) (hp : ∀ t, Only answerParts u t → post t) :
    AnswersWith c l rc x s post := by
  have e : serve code seq body s = answer (.reply rc x) u := by
    rw [serve_ready hready (by rw [hb]; exact hs), hb]
  have hreq := ho .request hq
  have e2 : answer (.reply rc x) u = offerReply ⟨code, seq.val, s.bridge.consoleNode, .plain⟩ rc x u := by
    unfold answer
    rw [hreq.1]
    rfl
  have hrep := offerReply_replied (seq := seq) (c := rc) (x := x) hreq.1 hreq.2.1 hreq.2.2
  have htab : withTables s.bridge (serve code seq body s).bridge = u.bridge := by
    have h := answer_only (a := .reply rc x) (s := u)
    rw [← e] at h
    have h1 := h .nodes (by decide)
    have h2 := h .nodePair (by decide)
    have h3 := h .filters (by decide)
    rw [hbr]
    simp only [Part.same] at h1 h2 h3
    simp [withTables, h1, h2, h3]
  have hbeg : Only answerParts s (begin code seq s) := begin_only.mono (by decide)
  refine ⟨code, seq, _, hr, hc, ?_, by rw [htab, e, e2]; exact hrep, hp _ (by rw [e]; exact answer_only)⟩
  rw [e]
  exact (Only.more hbeg).trans ((Only.behind ho).trans (Only.more answer_only))

/-- A request whose body changes nothing answers and does nothing else. -/
theorem answers_of_served {c : Instr} {code : Nat} {seq : Seq} {body : State → State × Answer} {s : State}
    {rc : ReplyCode} {x : ReplyFields} (hr : requestOf c = some (code, seq))
    (hc : exec c s = .next (serve code seq body s)) (hready : Ready s)
    (hb : body (begin code seq s) = (begin code seq s, .reply rc x)) : Answers c rc x s :=
  answersWith_of_served hr hc hready hb (Only.refl _ _) (by decide) hready.2 rfl fun _ _ => trivial

/-- A table write that the checks of R176 refuse is answered so. -/
theorem answers_of_table {α : Type} {c : Instr} {seq : Seq} {table index : Nat} {check : State → Verdict α}
    {apply : α → State → State} {s : State} {rc : ReplyCode} (hr : requestOf c = some (3, seq))
    (hc : exec c s = .next (serve 3 seq (writing table index check apply) s)) (hready : Ready s)
    (h : tableRefusal table index s.mgmt.mode = some rc) : Answers c rc .none s :=
  answers_of_served hr hc hready (by simp [writing, h, plain])

/-- A table write that its owning rule's checks refuse is answered so. -/
theorem answers_of_check {α : Type} {c : Instr} {seq : Seq} {table index : Nat} {check : State → Verdict α}
    {apply : α → State → State} {s : State} {rc : ReplyCode} (hr : requestOf c = some (3, seq))
    (hc : exec c s = .next (serve 3 seq (writing table index check apply) s)) (hready : Ready s)
    (h : tableRefusal table index s.mgmt.mode = none) (hv : check (begin 3 seq s) = .refuse rc) :
    Answers c rc .none s :=
  answers_of_served hr hc hready (by simp [writing, h, hv, plain])

/-- A table write that passes its checks takes its effect. -/
theorem writing_accepted {α : Type} {table index : Nat} {check : State → Verdict α}
    {apply : α → State → State} {s : State} {x : α} {k : Bool}
    (h : tableRefusal table index s.mgmt.mode = none) (hv : check s = .accept x k) :
    writing table index check apply s = (apply x s, .reply (writeCode k) .none) := by
  simp [writing, h, hv, plain]

/-- Where no FAULTSTOP entry can come, what holds in the quiet case is kept. -/
theorem Completes.of_quiet {c : Instr} {l : List Part} {s : State} {kept post k p : State → Prop}
    (h : Completes c l s kept post) (hs : Quiet s) (hk : ∀ t, kept t → post t → k t)
    (hp : ∀ t, post t → p t) : Completes c l s k p := by
  obtain ⟨t, h1, h2, h3, h4, h5⟩ := h
  exact ⟨t, h1, hk t h2 (h5 hs.notStopped).2, h3, h4, fun q => ⟨(h5 q).1, hp t (h5 q).2⟩⟩

end Sys2Proof.Machine
end

