-- ==== Sys2Proof/Laws/Zones.lean ====
section
/-! SUPPORT. What the evaluation of one zone and of all sixteen can do (5.4 to 5.7, 6.3): one lemma for the
reports that follow it, one for a zone, and one for the sixteen in turn. -/

namespace Sys2Proof.Machine

-- One theorem at a time: the package as one text then needs few threads.
set_option Elab.async false

/-! ### The reports that follow an evaluation -/

theorem condNum_inj {j k : CondKind} (h : condNum j = condNum k) : j = k := by
  revert h
  cases j <;> cases k <;> decide

theorem condEntry_upd (l : CondLog) (j k : CondKind) (f : CondEntry → CondEntry) :
    condEntry { l with entries := upd l.entries (condNum k) f } j =
      if j = k then f (condEntry l k) else condEntry l j := by
  unfold condEntry
  rw [upd_get]
  by_cases h : j = k
  · simp [h]
  · rw [if_neg fun e => h (condNum_inj e).symm, if_neg h]

theorem occur_active {j k : CondKind} {s : State} :
    isActive (occur k s) j = if j = k then isActive s k || isLevelKind k else isActive s j := by
  have h : isActive (noteOccurrence k s) j = if j = k then isActive s k || isLevelKind k else isActive s j := by
    unfold isActive noteOccurrence
    rw [condEntry_upd]
    split <;> rfl
  unfold occur
  dsimp only
  split
  · exact h
  · exact h

/-- A level kind takes the standing it is given, and no other kind's standing changes (R180). -/
theorem setLevelKind_active {j k : CondKind} {b : Bool} {s : State} (hk : isLevelKind k = true) :
    isActive (setLevelKind k b s) j = if j = k then b else isActive s j := by
  unfold setLevelKind
  split
  · rename_i h
    split
    · rename_i e
      rw [e]
      exact (beq_iff_eq.mp h).symm
    · rfl
  · split
    · rename_i hb
      rw [occur_active, hk, hb]
      simp
    · rename_i hb
      unfold isActive endLevel
      rw [condEntry_upd]
      split
      · simpa [endEntry] using hb
      · rfl

/-- Nothing that a zone's evaluation reads has changed. -/
structure HeatKept (s t : State) : Prop where
  heat : t.heat = s.heat
  power : t.power = s.power
  travel : t.travel = s.travel
  mode : t.mgmt.mode = s.mgmt.mode

theorem HeatKept.refl (s : State) : HeatKept s s := ⟨rfl, rfl, rfl, rfl⟩

theorem HeatKept.trans {s t u : State} (h : HeatKept s t) (k : HeatKept t u) : HeatKept s u :=
  ⟨k.heat.trans h.heat, k.power.trans h.power, k.travel.trans h.travel, k.mode.trans h.mode⟩

theorem setLevelKind_kept {k : CondKind} {b : Bool} {s : State} :
    HeatKept s (setLevelKind k b s) ∧ (setLevelKind k b s).voter = s.voter := by
  unfold setLevelKind occur
  dsimp only
  split
  · exact ⟨.refl s, rfl⟩
  · split
    · split <;> exact ⟨⟨rfl, rfl, rfl, rfl⟩, rfl⟩
    · exact ⟨⟨rfl, rfl, rfl, rfl⟩, rfl⟩

theorem submit_kept {i : Fin 7} {v : Int} {s : State} :
    HeatKept s (submit i v s) ∧ (submit i v s).voter = s.voter ∧ (submit i v s).log = s.log := by
  unfold submit
  dsimp only
  split
  · exact ⟨.refl s, rfl, rfl⟩
  · split
    · exact ⟨.refl s, rfl, rfl⟩
    · split <;> exact ⟨⟨rfl, rfl, rfl, rfl⟩, rfl, rfl⟩

/-- A report to the Voter writes what it reports, and beyond the votes' outcome it changes nothing that an
evaluation reads (R94, R96). -/
theorem reportVoter_kept {f : Voter → Voter} {s : State} :
    HeatKept s (reportVoter f s) ∧ (reportVoter f s).log = s.log ∧
      (reportVoter f s).voter.heatInput = (f s.voter).heatInput ∧
      (reportVoter f s).voter.heatRight = (f s.voter).heatRight := by
  unfold reportVoter recomputeVotes
  dsimp only
  split
  · exact ⟨⟨rfl, rfl, rfl, rfl⟩, rfl, rfl, rfl⟩
  · split
    · unfold requestLevel
      obtain ⟨h1, h2, h3⟩ := submit_kept (i := engineTarget) (v := (resolvedLevel (f s.voter) : Nat))
        (s := { withTimer none { s with voter := f s.voter } with
          voter := { (withTimer none { s with voter := f s.voter }).voter with
            requested := resolvedLevel (f s.voter) } })
      refine ⟨⟨h1.heat, h1.power, h1.travel, h1.mode⟩, h3, ?_, ?_⟩
      · rw [h2]; rfl
      · rw [h2]; rfl
    · split
      · exact ⟨⟨rfl, rfl, rfl, rfl⟩, rfl, rfl, rfl⟩
      · split <;> exact ⟨⟨rfl, rfl, rfl, rfl⟩, rfl, rfl, rfl⟩

theorem tellMap_active {f : RowFlag} {b : Bool} {s : State} {k : CondKind} :
    isActive (tellMap f b s) k = isActive s k := rfl

/-- HEAT_SHED follows the records (R92). -/
theorem evalHeatShed_kept {s : State} :
    HeatKept s (evalHeatShed s) ∧ (evalHeatShed s).voter = s.voter ∧
      ∀ k, isActive (evalHeatShed s) k =
        if k = .heatShed then s.power.records.toList.any (·.shed) else isActive s k := by
  unfold evalHeatShed
  dsimp only
  split
  · rename_i h
    refine ⟨.refl s, rfl, fun k => ?_⟩
    split
    · rename_i e; rw [e, h]
    · rfl
  · obtain ⟨h, hv⟩ := setLevelKind_kept (k := .heatShed) (b := s.power.records.toList.any (·.shed)) (s := s)
    exact ⟨⟨h.heat, h.power, h.travel, h.mode⟩, hv, fun k => setLevelKind_active rfl⟩

/-! ### An allocation -/

/-- What a zone may take of an allocation: its allocated duty and SHED flag, and, where its line is not held off,
what a lower duty does to the line (R80, R92). -/
structure DutyOnly (m : HubMode) (x y : Zone) : Prop where
  entry : y.entry = x.entry
  state : y.vars.state = x.vars.state
  source : y.vars.source = x.vars.source
  temp : y.vars.temp = x.vars.temp
  age : y.vars.age = x.vars.age
  stale : y.vars.stale = x.vars.stale
  overtemp : y.vars.overtemp = x.vars.overtemp
  boost : y.vars.boost = x.vars.boost
  demand : y.vars.demand = x.vars.demand
  held : heldOff m x.vars = true → y.vars.periodDuty = x.vars.periodDuty ∧ y.vars.lineOn = x.vars.lineOn

/-- What an allocation can do (R90 to R92). -/
theorem allocate_spec (s : State) :
    let recs := allocateAll (budgetNow s.power) s.power.records
    let t := allocate s
    t.power = { s.power with records := recs } ∧ t.travel = s.travel ∧ t.mgmt.mode = s.mgmt.mode ∧
      t.heat = receiveAlloc s.mgmt.mode s.power.entry.period s.power.records recs s.heat ∧
      t.voter.heatInput = totalDemand recs ∧ t.voter.heatRight = s.voter.heatRight ∧
      ∀ k, isActive t k = if k = .heatShed then recs.toList.any (·.shed) else isActive s k := by
  unfold allocate
  dsimp only
  obtain ⟨h1, h2, h3, h4⟩ := reportVoter_kept
    (f := fun v => { v with heatInput := totalDemand (allocateAll (budgetNow s.power) s.power.records) })
    (s := evalHeatShed { s with
      heat := receiveAlloc s.mgmt.mode s.power.entry.period s.power.records
        (allocateAll (budgetNow s.power) s.power.records) s.heat
      power := { s.power with records := allocateAll (budgetNow s.power) s.power.records } })
  obtain ⟨k1, k2, k3⟩ := evalHeatShed_kept (s := { s with
      heat := receiveAlloc s.mgmt.mode s.power.entry.period s.power.records
        (allocateAll (budgetNow s.power) s.power.records) s.heat
      power := { s.power with records := allocateAll (budgetNow s.power) s.power.records } })
  refine ⟨h1.power.trans k1.power, h1.travel.trans k1.travel, h1.mode.trans k1.mode, h1.heat.trans k1.heat,
    h3, ?_, fun k => ?_⟩
  · rw [h4, k2]
  · unfold isActive
    rw [h2]
    exact k3 k

theorem DutyOnly.refl {m : HubMode} {x : Zone} : DutyOnly m x x :=
  ⟨rfl, rfl, rfl, rfl, rfl, rfl, rfl, rfl, rfl, fun _ => ⟨rfl, rfl⟩⟩

theorem DutyOnly.trans {m : HubMode} {x y z : Zone} (h : DutyOnly m x y) (k : DutyOnly m y z) :
    DutyOnly m x z := by
  refine ⟨k.entry.trans h.entry, k.state.trans h.state, k.source.trans h.source, k.temp.trans h.temp,
    k.age.trans h.age, k.stale.trans h.stale, k.overtemp.trans h.overtemp, k.boost.trans h.boost,
    k.demand.trans h.demand, fun o => ?_⟩
  have o' : heldOff m y.vars = true := by
    unfold heldOff at o ⊢
    rw [h.state, h.overtemp]
    exact o
  exact ⟨(k.held o').1.trans (h.held o).1, (k.held o').2.trans (h.held o).2⟩

theorem applyDuty_duty {m : HubMode} {p e a : Nat} {b : Bool} {x : Zone} :
    DutyOnly m x { x with vars := applyDuty m p e a b x.vars } := by
  by_cases h : (heldOff m x.vars || decide (x.vars.periodDuty ≤ a)) = true
  · simp only [applyDuty, h, if_true]
    exact ⟨rfl, rfl, rfl, rfl, rfl, rfl, rfl, rfl, rfl, fun _ => ⟨rfl, rfl⟩⟩
  · simp only [applyDuty, h]
    exact ⟨rfl, rfl, rfl, rfl, rfl, rfl, rfl, rfl, rfl, fun o => absurd (by simp [o]) h⟩

theorem receiveAlloc_zone {m : HubMode} {p : Nat} {old new : Vector AllocRec 16} {h : Heat} (z : Fin 16) :
    let y := (receiveAlloc m p old new h).zones[z]
    DutyOnly m h.zones[z] y ∧
      (old[z].alloc = new[z].alloc ∧ old[z].shed = new[z].shed → y = h.zones[z]) ∧
      (¬(old[z].alloc = new[z].alloc ∧ old[z].shed = new[z].shed) →
        y.vars.alloc = new[z].alloc ∧ y.vars.shed = new[z].shed) := by
  have e : (receiveAlloc m p old new h).zones[z] =
      if old[z].alloc = new[z].alloc ∧ old[z].shed = new[z].shed then h.zones[z]
      else { h.zones[z] with vars := applyDuty m p h.elapsed new[z].alloc new[z].shed h.zones[z].vars } := by
    simp [receiveAlloc]
  dsimp only
  rw [e]
  split
  · rename_i k
    exact ⟨.refl, fun _ => rfl, fun n => absurd k n⟩
  · rename_i k
    refine ⟨applyDuty_duty, fun n => absurd n k, fun _ => ?_⟩
    unfold applyDuty
    split <;> exact ⟨rfl, rfl⟩

/-! ### One zone -/

/-- An evaluation's variables are those of the rules (R71 to R74, R81). -/
theorem reviewVars_evaluated (s : State) (x : Zone) :
    ZoneEvaluated s.mgmt.mode s.heat.master s.travel x { x with vars := reviewVars s x } := by
  by_cases off : x.entry.enable = false ∨ s.heat.master = false
  · have st : zoneState s x = .disabled := by
      unfold zoneState
      rcases off with h | h <;> simp [h]
    cases o : x.vars.overtemp <;>
      simp [ZoneEvaluated, off, reviewVars, st, holdLine, heldOff, offState, demandOf, o]
  have st0 : (!x.entry.enable || !s.heat.master) = false := by simpa using off
  by_cases away : s.mgmt.mode ≠ .run ∨ s.travel.cHi < x.entry.first ∨ x.entry.last < s.travel.cLo
  · have st : zoneState s x = .idle := by
      unfold zoneState
      rw [st0]
      rcases away with h | h | h <;> simp [h, covered]
    cases o : x.vars.overtemp <;>
      simp [ZoneEvaluated, off, away, reviewVars, st, holdLine, heldOff, offState, demandOf, o]
  have st1 : (decide (s.mgmt.mode ≠ .run) || !covered s x.entry) = false := by
    simpa [covered] using away
  have hm : s.mgmt.mode = .run := by
    by_contra h
    exact away (.inl h)
  by_cases blind : x.vars.source = .none ∨ x.vars.temp = none ∨ x.vars.stale = true
  · have st : zoneState s x = .fault := by
      unfold zoneState
      rw [st0, st1]
      rcases blind with h | h | h
      · simp [h]
      · rw [h]; cases x.vars.source <;> rfl
      · rw [h]; cases x.vars.source <;> cases x.vars.temp <;> rfl
    cases o : x.vars.overtemp <;>
      simp [ZoneEvaluated, off, away, blind, reviewVars, st, holdLine, heldOff, offState, demandOf, o]
  · have hs : x.vars.source ≠ .none := fun h => blind (.inl h)
    have hf : x.vars.stale = false := by
      cases h : x.vars.stale
      · rfl
      · exact absurd (.inr (.inr h)) blind
    cases ht : x.vars.temp with
    | none => exact absurd (.inr (.inl ht)) blind
    | some y =>
      obtain ⟨t, k⟩ := y
      have st : zoneState s x = if s.travel.motion = .parked then .standby
          else warmOrRegulate x.entry x.vars.state t := by
        unfold zoneState
        rw [st0, st1, ht, hf]
        cases h : x.vars.source <;> first | exact absurd h hs | rfl
      have c1 : ¬s.travel.cHi < x.entry.first := fun h => away (.inr (.inl h))
      have c2 : ¬x.entry.last < s.travel.cLo := fun h => away (.inr (.inr h))
      by_cases park : s.travel.motion = .parked
      · rw [if_pos park] at st
        cases o : x.vars.overtemp <;>
          simp [ZoneEvaluated, off, c1, c2, hs, hf, ht, hm, park, reviewVars, st, holdLine, heldOff, offState, demandOf,
            o, lawDuty, clampInt]
      · rw [if_neg park] at st
        by_cases r : x.vars.state = .regulate
        · have hw : warmOrRegulate x.entry x.vars.state t =
              if t < x.entry.setpoint - 2 * x.entry.warmBand then .warmup else .regulate := by
            simp [warmOrRegulate, r]
          rw [hw] at st
          by_cases low : t < x.entry.setpoint - 2 * x.entry.warmBand
          all_goals
            simp only [low, if_true, if_false] at st
            cases o : x.vars.overtemp <;>
              simp [ZoneEvaluated, off, c1, c2, hs, hf, ht, hm, park, r, reviewVars, st, holdLine, heldOff, offState,
                demandOf, o, lawDuty, clampInt] <;> omega
        · have hw : warmOrRegulate x.entry x.vars.state t =
              if t < x.entry.setpoint - x.entry.warmBand then .warmup else .regulate := by
            simp [warmOrRegulate, r]
          rw [hw] at st
          by_cases low : t < x.entry.setpoint - x.entry.warmBand
          all_goals
            simp only [low, if_true, if_false] at st
            cases o : x.vars.overtemp <;>
              simp [ZoneEvaluated, off, c1, c2, hs, hf, ht, hm, park, r, reviewVars, st, holdLine, heldOff, offState,
                demandOf, o, lawDuty, clampInt] <;> omega

theorem reviewVars_duty (s : State) (x : Zone) :
    (reviewVars s x).alloc = x.vars.alloc ∧ (reviewVars s x).shed = x.vars.shed := by
  have h : ∀ (m : HubMode) (w : ZoneVars), (holdLine m w).alloc = w.alloc ∧ (holdLine m w).shed = w.shed :=
    fun m w => by
      unfold holdLine
      split <;> exact ⟨rfl, rfl⟩
  exact h _ _

/-- An evaluation of a zone before which an allocation has reached it is one of the zone as it was. -/
theorem ZoneEvaluated.before {m : HubMode} {b : Bool} {v : Travel} {x x' y : Zone}
    (h : ZoneEvaluated m b v x' y) (k : DutyOnly m x x') : ZoneEvaluated m b v x y := by
  unfold ZoneEvaluated at h ⊢
  dsimp only at h ⊢
  rw [k.entry, k.state, k.source, k.temp, k.age, k.stale, k.overtemp, k.boost] at h
  exact h

/-- What an allocation does to an evaluated zone leaves it evaluated. -/
theorem ZoneEvaluated.after {m : HubMode} {b : Bool} {v : Travel} {x y y' : Zone}
    (h : ZoneEvaluated m b v x y) (k : DutyOnly m y y') : ZoneEvaluated m b v x y' := by
  unfold ZoneEvaluated at h ⊢
  dsimp only at h ⊢
  rw [k.entry, k.state, k.source, k.temp, k.age, k.stale, k.overtemp, k.boost, k.demand]
  obtain ⟨h1, h2, h3, h4, h5, h6, h7, h8, h9, h10, h11, h12, h13, h14⟩ := h
  refine ⟨h1, h2, h3, h4, h5, h6, h7, h8, h9, h10, h11, h12, fun r => ?_, h14⟩
  have o : heldOff m y.vars = true := by
    unfold heldOff
    rcases r with (r | r | r) | r
    · rw [h7 r]; rfl
    · by_cases q : x.entry.enable = false ∨ b = false
      · rw [h7 q]; rfl
      · rw [h8 q r]; rfl
    · by_cases q : x.entry.enable = false ∨ b = false
      · rw [h7 q]; rfl
      · by_cases p : m ≠ .run ∨ v.cHi < x.entry.first ∨ x.entry.last < v.cLo
        · rw [h8 q p]; rfl
        · rw [h9 q p r]; rfl
    · rw [r]; simp
  rw [(k.held o).1, (k.held o).2]
  exact h13 r

/-- The heating right's change (R73). -/
theorem evalHeatRights_spec (s : State) :
    let t := evalHeatRights s
    t.heat = { s.heat with rights := heatRightsHeld s.heat } ∧ t.power = s.power ∧ t.travel = s.travel ∧
      t.mgmt.mode = s.mgmt.mode ∧ t.log = s.log ∧ t.voter.heatInput = s.voter.heatInput ∧
      ((t.heat.rights = s.heat.rights ∧ t.voter.heatRight = s.voter.heatRight) ∨
        t.voter.heatRight = t.heat.rights) := by
  unfold evalHeatRights
  dsimp only
  split
  · rename_i h
    rw [h]
    exact ⟨rfl, rfl, rfl, rfl, rfl, rfl, .inl ⟨rfl, rfl⟩⟩
  · obtain ⟨h1, h2, h3, h4⟩ := reportVoter_kept (f := fun v => { v with heatRight := heatRightsHeld s.heat })
      (s := { s with heat := { s.heat with rights := heatRightsHeld s.heat } })
    refine ⟨h1.heat, h1.power, h1.travel, h1.mode, h2, h3, .inr ?_⟩
    rw [h4, h1.heat]

/-- ZONE_FAULT and ZONE_OVERTEMP follow the zones (R78). -/
theorem evalZoneKinds_spec (s : State) :
    let t := evalZoneKinds s
    HeatKept s t ∧ t.voter = s.voter ∧
      isActive t .zoneFault = s.heat.zones.toList.any (·.vars.state == .fault) ∧
      isActive t .zoneOvertemp = s.heat.zones.toList.any (·.vars.overtemp) ∧
      isActive t .heatShed = isActive s .heatShed := by
  unfold evalZoneKinds
  dsimp only
  obtain ⟨h1, v1⟩ := setLevelKind_kept (k := .zoneFault) (b := s.heat.zones.toList.any (·.vars.state == .fault)) (s := s)
  obtain ⟨h2, v2⟩ := setLevelKind_kept (k := .zoneOvertemp)
    (b := (setLevelKind .zoneFault (s.heat.zones.toList.any (·.vars.state == .fault)) s).heat.zones.toList.any
      (·.vars.overtemp))
    (s := setLevelKind .zoneFault (s.heat.zones.toList.any (·.vars.state == .fault)) s)
  refine ⟨h1.trans h2, v2.trans v1, ?_, ?_, ?_⟩
  · rw [setLevelKind_active rfl, if_neg (by decide), setLevelKind_active rfl, if_pos rfl]
  · rw [setLevelKind_active rfl, if_pos rfl, h1.heat]
  · rw [setLevelKind_active rfl, if_neg (by decide), setLevelKind_active rfl, if_neg (by decide)]

/-- A zone's demand and state, with its rating and class, written into a record (R90). -/
def feedRecord (x : Zone) (v : ZoneVars) (r : AllocRec) : AllocRec :=
  { r with demand := v.demand, state := v.state, rating := x.entry.rating, cls := x.entry.cls }

/-- What the evaluation of one zone can do (R71 to R75, R78, R90 to R92). -/
theorem reviewZone_spec (z : Fin 16) (s : State) :
    let x := s.heat.zones[z]
    let v := reviewVars s x
    let t := reviewZone z s
    let put := fun y : Fin 16 => if y = z then { x with vars := v } else s.heat.zones[y]
    let fed := upd s.power.records z (feedRecord x v)
    let recs := allocateAll (budgetNow s.power) fed
    let told := ¬(v.demand = x.vars.demand ∧ v.state = x.vars.state)
    t.travel = s.travel ∧ t.mgmt.mode = s.mgmt.mode ∧ t.heat.master = s.heat.master ∧
      t.power = { s.power with records := t.power.records } ∧
      (¬told → t.power = s.power ∧ (∀ y : Fin 16, t.heat.zones[y] = put y) ∧
        t.voter.heatInput = s.voter.heatInput ∧ isActive t .heatShed = isActive s .heatShed) ∧
      (told → t.power.records = recs ∧ t.voter.heatInput = totalDemand recs ∧
        isActive t .heatShed = recs.toList.any (·.shed) ∧
        ∀ y : Fin 16, DutyOnly s.mgmt.mode (put y) t.heat.zones[y] ∧
          (fed[y].alloc = recs[y].alloc ∧ fed[y].shed = recs[y].shed → t.heat.zones[y] = put y) ∧
          (¬(fed[y].alloc = recs[y].alloc ∧ fed[y].shed = recs[y].shed) →
            t.heat.zones[y].vars.alloc = recs[y].alloc ∧ t.heat.zones[y].vars.shed = recs[y].shed)) ∧
      isActive t .zoneFault = t.heat.zones.toList.any (·.vars.state == .fault) ∧
      isActive t .zoneOvertemp = t.heat.zones.toList.any (·.vars.overtemp) ∧
      t.heat.rights = heatRightsHeld t.heat ∧
      ((t.heat.rights = s.heat.rights ∧ t.voter.heatRight = s.voter.heatRight) ∨
        t.voter.heatRight = t.heat.rights) := by
  intro x v t put fed recs told
  let s1 := modZoneVars s z (fun _ => v)
  let s2 := if v.demand = x.vars.demand ∧ v.state = x.vars.state then s1
    else demandReport z { x with vars := v } s1
  have et : t = evalHeatRights (evalZoneKinds s2) := rfl
  have put1 : ∀ y : Fin 16, s1.heat.zones[y] = put y := fun y => by
    have e : s1.heat.zones[y] = if z = y then { s.heat.zones[z] with vars := v } else s.heat.zones[y] :=
      upd_get _ _ _ _
    rw [e]
    by_cases h : y = z
    · simp [put, h, x]
    · rw [if_neg fun k => h k.symm]
      simp [put, h]
  obtain ⟨k1, k2, k3, k4, k5⟩ := evalZoneKinds_spec s2
  obtain ⟨r1, r2, r3, r4, r5, r6, r7⟩ := evalHeatRights_spec (evalZoneKinds s2)
  rw [← et] at r1 r2 r3 r4 r5 r6 r7
  have log : ∀ k, isActive t k = isActive (evalZoneKinds s2) k := fun k => by unfold isActive; rw [r5]
  rw [k1.heat] at r1 r7
  rw [k2] at r6 r7
  have zones : t.heat.zones = s2.heat.zones := by rw [r1]
  have held : heatRightsHeld t.heat = heatRightsHeld s2.heat := by rw [r1]; rfl
  have same : told ∨ ¬told := by by_cases h : told <;> simp [h]
  by_cases h : told
  · have e2 : s2 = demandReport z { x with vars := v } s1 := if_neg h
    let s3 : State := { s1 with power := { s1.power with records := fed } }
    obtain ⟨a1, a2, a3, a4, a5, a6, a7⟩ := allocate_spec s3
    have e3 : s2 = allocate s3 := e2
    rw [← e3] at a1 a2 a3 a4 a5 a6 a7
    have eh : s2.heat.rights = s.heat.rights ∧ s2.heat.master = s.heat.master := by
      rw [a4]; exact ⟨rfl, rfl⟩
    refine ⟨by rw [r3, k1.travel, a2]; rfl, by rw [r4, k1.mode, a3]; rfl, by rw [r1]; exact eh.2, ?_,
      fun n => absurd h n, fun _ => ⟨?_, ?_, ?_, fun y => ?_⟩, ?_, ?_, ?_, ?_⟩
    · rw [r2, k1.power, a1]; rfl
    · rw [r2, k1.power, a1]; rfl
    · rw [r6, a5]; rfl
    · rw [log, k5, a7]; rfl
    · have := receiveAlloc_zone (m := s.mgmt.mode) (p := s.power.entry.period) (old := fed) (new := recs) (h := s1.heat) y
      rw [put1 y] at this
      have ez : t.heat.zones[y] = (receiveAlloc s.mgmt.mode s.power.entry.period fed recs s1.heat).zones[y] := by
        rw [zones, a4]; rfl
      rw [ez]
      exact this
    · rw [log, k3, zones]
    · rw [log, k4, zones]
    · rw [held, r1]
    · rw [a6, eh.1] at r7
      exact r7
  · have e2 : s2 = s1 := if_pos (not_not.mp h)
    rw [e2] at r1 r2 r3 r4 r6 r7 k1 k3 k4 k5 zones held
    refine ⟨r3.trans k1.travel, r4.trans k1.mode, by rw [r1]; rfl, by rw [r2, k1.power]; rfl,
      fun _ => ⟨r2.trans k1.power, fun y => ?_, r6, by rw [log]; rw [e2]; exact k5⟩, fun n => absurd n h, ?_, ?_, ?_, r7⟩
    · rw [zones]; exact put1 y
    · rw [log, e2, k3, zones]
    · rw [log, e2, k4, zones]
    · rw [held, r1]

/-! ### All sixteen -/

/-- Two records ask for the same. -/
def SameAsk (a b : AllocRec) : Prop :=
  a.demand = b.demand ∧ a.state = b.state ∧ a.rating = b.rating ∧ a.cls = b.cls

theorem toList_table {α : Type} {n : Nat} (v : Vector α n) :
    v.toList = (List.finRange n).map fun i => v[i] := by
  apply List.ext_getElem <;> simp

/-- An allocation reads of the records what they ask for, and no earlier allocation (R91). -/
theorem allocateAll_congr {b : Nat} {u v : Vector AllocRec 16} (h : ∀ i : Fin 16, SameAsk u[i] v[i]) :
    allocateAll b u = allocateAll b v := by
  have d : ∀ c, classDemand u c = classDemand v c := fun c => by
    unfold classDemand
    rw [toList_table, toList_table, List.map_map, List.map_map]
    congr 1
    refine List.map_congr_left fun i _ => ?_
    obtain ⟨h1, h2, h3, h4⟩ := h i
    simp only [Function.comp, demandPower, h1, h3, h4]
  have r : ∀ c, remaining b u c = remaining b v c := fun c => by
    induction c with
    | zero => rfl
    | succ c ih => simp only [remaining, ih, d]
  apply Vector.ext
  intro i hi
  have e : ∀ x y : AllocRec, SameAsk x y → allocateRec b u x = allocateRec b v y := by
    rintro ⟨x1, x2, x3, x4, x5, x6, x7, x8⟩ ⟨y1, y2, y3, y4, y5, y6, y7, y8⟩ ⟨h1, h2, h3, h4⟩
    dsimp only at h1 h2 h3 h4
    subst h1 h2 h3 h4
    have g : grantFor b u ⟨x1, x2, x3, x4, x5, x6, x7, x8⟩ = grantFor b v ⟨x1, x2, x3, x4, y5, y6, y7, y8⟩ := by
      simp only [grantFor, r, d, demandPower]
    unfold allocateRec
    rw [g]
    rfl
  simp only [allocateAll, tab_get]
  exact e _ _ (h ⟨i, hi⟩)

theorem totalDemand_congr {u v : Vector AllocRec 16} (h : ∀ i : Fin 16, SameAsk u[i] v[i]) :
    totalDemand u = totalDemand v := by
  unfold totalDemand
  rw [toList_table, toList_table, List.map_map, List.map_map]
  congr 1
  refine List.map_congr_left fun i _ => ?_
  obtain ⟨h1, -, h3, -⟩ := h i
  simp only [Function.comp, demandPower, h1, h3]

theorem allocateAll_asks {b : Nat} {u : Vector AllocRec 16} (i : Fin 16) : SameAsk (allocateAll b u)[i] u[i] := by
  have e : (allocateAll b u)[i] = allocateRec b u u[i] := by simp [allocateAll]
  rw [e]
  exact ⟨rfl, rfl, rfl, rfl⟩

theorem SameAsk.symm {a b : AllocRec} (h : SameAsk a b) : SameAsk b a :=
  ⟨h.1.symm, h.2.1.symm, h.2.2.1.symm, h.2.2.2.symm⟩

theorem SameAsk.trans {a b c : AllocRec} (h : SameAsk a b) (k : SameAsk b c) : SameAsk a c :=
  ⟨h.1.trans k.1, h.2.1.trans k.2.1, h.2.2.1.trans k.2.2.1, h.2.2.2.trans k.2.2.2⟩

/-- A zone's demand duty or state has changed, so that it reports (R75). -/
def Told (s t : State) (z : Fin 16) : Prop :=
  t.heat.zones[z].vars.demand ≠ s.heat.zones[z].vars.demand ∨
    t.heat.zones[z].vars.state ≠ s.heat.zones[z].vars.state

/-- A record after the reports of the zones that changed. -/
def fedRecord (s t : State) (z : Fin 16) : AllocRec :=
  let y := t.heat.zones[z]
  if y.vars.demand ≠ s.heat.zones[z].vars.demand ∨ y.vars.state ≠ s.heat.zones[z].vars.state then
    feedRecord s.heat.zones[z] y.vars s.power.records[z]
  else s.power.records[z]

/-- The zones of `p` have been evaluated from `s` to `t`, one after another. -/
structure Reviewed (p : List (Fin 16)) (s t : State) : Prop where
  travel : t.travel = s.travel
  mode : t.mgmt.mode = s.mgmt.mode
  master : t.heat.master = s.heat.master
  power : t.power = { s.power with records := t.power.records }
  done : ∀ z ∈ p, ZoneEvaluated s.mgmt.mode s.heat.master s.travel s.heat.zones[z] t.heat.zones[z]
  todo : ∀ z, z ∉ p → DutyOnly s.mgmt.mode s.heat.zones[z] t.heat.zones[z]
  quiet : (∀ z, ¬Told s t z) → t.power = s.power ∧
    ∀ z : Fin 16, t.heat.zones[z].vars.alloc = s.heat.zones[z].vars.alloc
  asked : ∀ z : Fin 16, SameAsk t.power.records[z] (fedRecord s t z)
  told : (∃ z, Told s t z) → t.power.records = allocateAll (budgetNow s.power) t.power.records ∧
    t.voter.heatInput = totalDemand t.power.records ∧
    isActive t .heatShed = t.power.records.toList.any (·.shed)
  follow : ∀ z : Fin 16, (t.power.records[z].alloc = s.power.records[z].alloc ∧
      t.power.records[z].shed = s.power.records[z].shed) ∨
    (t.heat.zones[z].vars.alloc = t.power.records[z].alloc ∧ t.heat.zones[z].vars.shed = t.power.records[z].shed)
  kinds : p ≠ [] → isActive t .zoneFault = t.heat.zones.toList.any (·.vars.state == .fault) ∧
    isActive t .zoneOvertemp = t.heat.zones.toList.any (·.vars.overtemp) ∧ t.heat.rights = heatRightsHeld t.heat
  rights : t.heat.rights = s.heat.rights ∨ t.voter.heatRight = t.heat.rights

theorem Reviewed.start (s : State) : Reviewed [] s s where
  travel := rfl
  mode := rfl
  master := rfl
  power := rfl
  done := fun z hz => absurd hz (by simp)
  todo := fun z _ => .refl
  quiet := fun _ => ⟨rfl, fun _ => rfl⟩
  asked := fun z => by unfold fedRecord; simp [SameAsk]
  told := fun ⟨z, hz⟩ => by simp [Told] at hz
  follow := fun z => .inl ⟨rfl, rfl⟩
  kinds := fun h => absurd rfl h
  rights := .inl rfl

theorem Reviewed.next {p : List (Fin 16)} {s t : State} (h : Reviewed p s t) {z : Fin 16} (hz : z ∉ p) :
    Reviewed (z :: p) s (reviewZone z t) := by
  obtain ⟨q1, q2, q3, q4, q5, q6, q7, q8, q9, q10⟩ := reviewZone_spec z t
  have e0 : ZoneEvaluated t.mgmt.mode t.heat.master t.travel t.heat.zones[z]
    { t.heat.zones[z] with vars := reviewVars t t.heat.zones[z] } := reviewVars_evaluated t _
  obtain ⟨va, vs⟩ := reviewVars_duty t t.heat.zones[z]
  generalize reviewZone z t = u at *
  generalize hx : t.heat.zones[z] = x at *
  generalize reviewVars t x = v at *
  have bud : budgetNow t.power = budgetNow s.power := by rw [h.power]; rfl
  have dz := h.todo z hz
  rw [hx] at dz
  -- each zone after the step, against what stood before it
  have duty : ∀ y : Fin 16, DutyOnly s.mgmt.mode (if y = z then { x with vars := v } else t.heat.zones[y])
      u.heat.zones[y] := fun y => by
    by_cases k : ¬(v.demand = x.vars.demand ∧ v.state = x.vars.state)
    · rw [← h.mode]
      exact ((q6 k).2.2.2 y).1
    · rw [(q5 k).2.1 y]
      exact .refl
  have ev : ZoneEvaluated s.mgmt.mode s.heat.master s.travel s.heat.zones[z] u.heat.zones[z] := by
    rw [h.mode, h.master, h.travel] at e0
    have d := duty z
    rw [if_pos rfl] at d
    exact (e0.before dz).after d
  have stays : ∀ y : Fin 16, y ≠ z → DutyOnly s.mgmt.mode t.heat.zones[y] u.heat.zones[y] :=
    fun y hy => by
      have d := duty y
      rwa [if_neg hy] at d
  have tells : ∀ y, y ≠ z → (Told s u y ↔ Told s t y) := fun y hy => by
    unfold Told
    rw [(stays y hy).demand, (stays y hy).state]
  have tz : Told s u z ↔ ¬(v.demand = x.vars.demand ∧ v.state = x.vars.state) := by
    have d := duty z
    rw [if_pos rfl] at d
    unfold Told
    rw [d.demand, d.state, ← dz.demand, ← dz.state]
    tauto
  have nt : ¬Told s t z := by
    unfold Told
    rw [hx, dz.demand, dz.state]
    simp
  have fedOther : ∀ y, y ≠ z → fedRecord s u y = fedRecord s t y := fun y hy => by
    have d := stays y hy
    unfold fedRecord
    simp only [d.demand, d.state, feedRecord]
  have putDuty : ∀ y : Fin 16, (if y = z then { x with vars := v } else t.heat.zones[y]).vars.alloc =
      t.heat.zones[y].vars.alloc ∧ (if y = z then { x with vars := v } else t.heat.zones[y]).vars.shed =
      t.heat.zones[y].vars.shed := fun y => by
    by_cases hy : y = z
    · rw [if_pos hy, hy, hx]
      exact ⟨va, vs⟩
    · rw [if_neg hy]
      exact ⟨rfl, rfl⟩
  have base : u.power = { s.power with records := u.power.records } := by
    rw [q4, h.power]
  have done : ∀ y ∈ z :: p, ZoneEvaluated s.mgmt.mode s.heat.master s.travel s.heat.zones[y] u.heat.zones[y] :=
    fun y hy => by
      by_cases e : y = z
      · rw [e]; exact ev
      · exact (h.done y ((List.mem_cons.mp hy).resolve_left e)).after (stays y e)
  have todo : ∀ y, y ∉ z :: p → DutyOnly s.mgmt.mode s.heat.zones[y] u.heat.zones[y] := fun y hy => by
    have e := List.mem_cons.not.mp hy
    exact (h.todo y fun k => e (.inr k)).trans (stays y fun k => e (.inl k))
  have rights : u.heat.rights = s.heat.rights ∨ u.voter.heatRight = u.heat.rights := by
    rcases q10 with ⟨a, b⟩ | a
    · rw [a, b]
      exact h.rights
    · exact .inr a
  by_cases k : ¬(v.demand = x.vars.demand ∧ v.state = x.vars.state)
  · obtain ⟨k1, k2, k3, k4⟩ := q6 k
    rw [bud] at k1 k2 k3 k4
    have ask : ∀ y : Fin 16, SameAsk (upd t.power.records z (feedRecord x v))[y] (fedRecord s u y) := fun y => by
      rw [upd_get]
      by_cases hy : z = y
      · subst hy
        rw [if_pos rfl]
        have d := duty z
        rw [if_pos rfl] at d
        have e : fedRecord s u z = feedRecord s.heat.zones[z] u.heat.zones[z].vars s.power.records[z] :=
          if_pos (tz.mpr k)
        rw [e]
        refine ⟨d.demand.symm, d.state.symm, ?_, ?_⟩ <;> simp only [feedRecord, dz.entry]
      · rw [if_neg hy, fedOther y fun e => hy e.symm]
        exact h.asked y
    have asked : ∀ y : Fin 16, SameAsk u.power.records[y] (fedRecord s u y) := fun y => by
      rw [k1]
      exact (allocateAll_asks y).trans (ask y)
    refine ⟨q1.trans h.travel, q2.trans h.mode, q3.trans h.master, base, done, todo,
      fun n => absurd (tz.mpr k) (n z), asked, fun _ => ⟨?_, ?_, ?_⟩, fun y => ?_, fun _ => ⟨q7, q8, q9⟩, rights⟩
    · conv_lhs => rw [k1]
      exact allocateAll_congr fun y => (ask y).trans (asked y).symm
    · rw [k2, k1]
    · rw [k3, k1]
    · obtain ⟨-, m1, m2⟩ := k4 y
      rw [← k1] at m1 m2
      have a : (upd t.power.records z (feedRecord x v))[y].alloc = t.power.records[y].alloc ∧
          (upd t.power.records z (feedRecord x v))[y].shed = t.power.records[y].shed := by
        rw [upd_get]
        split
        · rename_i e; subst e; exact ⟨rfl, rfl⟩
        · exact ⟨rfl, rfl⟩
      rw [a.1, a.2] at m1 m2
      by_cases e : t.power.records[y].alloc = u.power.records[y].alloc ∧
          t.power.records[y].shed = u.power.records[y].shed
      · rw [m1 e, (putDuty y).1, (putDuty y).2, ← e.1, ← e.2]
        exact h.follow y
      · exact .inr (m2 e)
  · obtain ⟨k1, k2, k3, k4⟩ := q5 k
    have fz : fedRecord s u z = fedRecord s t z := by
      have a : fedRecord s u z = s.power.records[z] := if_neg fun e => k (tz.mp e)
      have b : fedRecord s t z = s.power.records[z] := if_neg nt
      rw [a, b]
    refine ⟨q1.trans h.travel, q2.trans h.mode, q3.trans h.master, base, done, todo, fun n => ?_, fun y => ?_,
      fun ⟨y, hy⟩ => ?_, fun y => ?_, fun _ => ⟨q7, q8, q9⟩, rights⟩
    · have m := h.quiet fun y => by
        by_cases e : y = z
        · rw [e]; exact nt
        · exact fun c => n y ((tells y e).mpr c)
      exact ⟨k1.trans m.1, fun y => by rw [k2 y, (putDuty y).1]; exact m.2 y⟩
    · rw [k1]
      by_cases e : y = z
      · rw [e, fz]; exact h.asked z
      · rw [fedOther y e]; exact h.asked y
    · have e : y ≠ z := fun e => k (tz.mp (e ▸ hy))
      rw [k1, k3, k4]
      exact h.told ⟨y, (tells y e).mp hy⟩
    · rw [k1, k2 y, (putDuty y).1, (putDuty y).2]
      exact h.follow y

/-- What the evaluation of all sixteen zones can do: every zone is evaluated as the state stood before it, the
power is allocated once more for what they then ask, and the kinds and the heating right follow (R71 to R75, R78,
R90 to R92). -/
theorem reviewAll_reviewed (s : State) : ∃ p, (∀ z, z ∈ p) ∧ Reviewed p s (reviewAll s) := by
  have key : ∀ (l p : List (Fin 16)) (t : State), Reviewed p s t → l.Nodup → (∀ z ∈ l, z ∉ p) →
      ∃ q, (∀ z, z ∈ l ∨ z ∈ p → z ∈ q) ∧ Reviewed q s (l.foldl (fun s z => reviewZone z s) t) := by
    intro l
    induction l with
    | nil => exact fun p t h _ _ => ⟨p, fun z hz => hz.resolve_left (by simp), h⟩
    | cons a l ih =>
      intro p t h n d
      obtain ⟨na, nl⟩ := List.nodup_cons.mp n
      obtain ⟨q, h1, h2⟩ := ih (a :: p) (reviewZone a t) (h.next (d a (by simp))) nl fun z hz hp => by
        rcases List.mem_cons.mp hp with e | e
        · exact na (e ▸ hz)
        · exact d z (by simp [hz]) e
      refine ⟨q, fun z hz => h1 z ?_, h2⟩
      simp only [List.mem_cons] at hz ⊢
      tauto
  obtain ⟨q, h1, h2⟩ := key (List.finRange 16) [] s (.start s) (List.nodup_finRange 16) (by simp)
  exact ⟨q, fun z => h1 z (.inl (List.mem_finRange z)), h2⟩

theorem any_table {α : Type} {n : Nat} (v : Vector α n) (f : α → Bool) :
    v.toList.any f = (List.finRange n).any fun i => f v[i] := by
  rw [toList_table, List.any_map]
  rfl

/-- The evaluation of all sixteen zones in the terms of claims. -/
theorem reviewAll_evaluated (s : State) : ZonesEvaluated s.mgmt.mode s.heat.master s (reviewAll s) := by
  obtain ⟨p, all, h⟩ := reviewAll_reviewed s
  have ne : p ≠ [] := fun e => by simpa [e] using all 0
  obtain ⟨k1, k2, k3⟩ := h.kinds ne
  generalize reviewAll s = t at *
  let fed : Vector AllocRec 16 := Vector.ofFn fun z : Fin 16 => fedRecord s t z
  have fedAt : ∀ z : Fin 16, fed[z] = fedRecord s t z := fun z => by simp [fed]
  have ask : ∀ z : Fin 16, SameAsk t.power.records[z] fed[z] := fun z => by rw [fedAt]; exact h.asked z
  have right : heatRightsHeld t.heat = (s.heat.master && (List.finRange 16).any fun z : Fin 16 =>
      t.heat.zones[z].vars.state == .standby || t.heat.zones[z].vars.state == .warmup ||
        t.heat.zones[z].vars.state == .regulate) := by
    unfold heatRightsHeld
    rw [h.master, any_table]
    congr 2
    funext z
    cases t.heat.zones[z].vars.state <;> rfl
  refine ⟨fun z => h.done z (all z), fun n => ?_, fun m => ?_, fun z hz => ?_, ?_, ?_, ?_, fun hr => ?_⟩
  · obtain ⟨a, b⟩ := h.quiet n
    refine ⟨a, ?_⟩
    apply Vector.ext
    intro i hi
    simpa using b ⟨i, hi⟩
  · obtain ⟨a, b, c⟩ := h.told m
    have e : t.power.records = allocateAll (budgetNow s.power) fed := a.trans (allocateAll_congr ask)
    refine ⟨?_, ?_, ?_⟩
    · rw [h.power, e]
      rfl
    · rw [b, totalDemand_congr ask]
      unfold totalDemand
      rw [toList_table, List.map_map]
      rfl
    · rw [c, any_table]
  · exact (h.follow z).resolve_left fun e => hz.elim (fun n => n e.1) fun n => n e.2
  · rw [k1, any_table]
  · rw [k2, any_table]
  · rw [k3, right]
  · rw [← right, ← k3] at hr ⊢
    exact h.rights.resolve_left hr

end Sys2Proof.Machine
end

