-- ==== Sys2Proof/WellFormed.lean ====
section
/-! DEFINITION. Which commands some sender can form.  Most bounds stand in the operands' types; a
field that the hub itself checks (an index, a node, a number) may hold anything, since the check is
the command's meaning.  What is left is said here. -/

namespace Sys2Proof

/-- A role label holds at most 8 characters (1.5). -/
def NodeWrite.wf (w : NodeWrite) : Bool := w.role.length ≤ 8

/-- The vote tables 0 to 2 carry thresholds and table 3 the floor level and down-delay (12.2). -/
def VoteFields.fits (index : Nat) : VoteFields → Bool
  | .thresholds _ => index != 3
  | .floorDelay _ _ => index ≥ 3

/-- A well-formed command.  Index 64 of the node table and index 0 of the line table are the
subjects of rows of their own (WRITE_OWN_CONSOLE_NODE, WRITE_REFERENCE_ENTRY). -/
def Instr.wf : Instr → Bool
  | .writeNodeEntry _ index fields => index != 64 && fields.wf
  | .writeSensorEntry _ index _ => index != 0
  | .writeVoteTable _ index fields => fields.fits index
  | _ => true

end Sys2Proof
end

