-- ==== Sys2Proof/Tests/Slice0.lean ====
section
/-! SUPPORT. The model's own tests: terms that are not well formed, worked cases of the spec, and for every
statement with hypotheses a state and operands that meet them.  Expected values come from the spec's tables
and worked cases, but for the CRC's check value, which is the family's (PRESUMED), and the frame bytes, whose
CRC was divided by hand-written code outside Lean. -/

open Sys2Proof Sys2Proof.Machine

namespace Sys2Proof.Tests

set_option Elab.async false

/-! ### Small states -/

/-- The state after a command. -/
def after (c : Instr) (s : State) : State :=
  match exec c s with
  | .next t => t
  | .fault _ => s
  | .refused _ => s

/-- The state after several commands. -/
def afterAll (l : List Instr) (s : State) : State := l.foldl (fun s c => after c s) s

/-- A port in UP. -/
def portUp : PortRec := { PortRec.reset with state := .up, attempt := none, sync := none }

/-- A port in DOWN. -/
def portDown : PortRec :=
  { PortRec.reset with state := .down, retrains := 3, attempt := none, sync := none, retry := some 7 }

/-- The state after reset with both ports set. -/
def linked (a b : PortRec) (s : State) : State := { s with bridge := { s.bridge with portA := a, portB := b } }

/-- An intake entry set. -/
def withEntry (i : Fin 24) (e : IntakeEntry) (s : State) : State :=
  { s with intake := { s.intake with entries := s.intake.entries.set i ⟨e, 0⟩ } }

/-- A node's side set. -/
def withNode (n : Fin 64) (d : NodeSide) (s : State) : State :=
  { s with bridge := { s.bridge with nodes := s.bridge.nodes.set n ⟨d, []⟩ } }

/-- The hub in CONFIG, both ports UP, node 10 on side B, slots 0 and 1 named. -/
def base : State :=
  withEntry 0 ⟨true, 20, 1, 0, 4, true, 1, 1, 0, 0, 1000⟩
    (withEntry 1 ⟨true, 20, 2, 0, 2, true, 1, 1, 0, 1, 1000⟩
      (withNode 10 .B (linked portUp portUp State.reset)))

/-- The hub in RUN. -/
def running : State := after (.run 0) base

/-- A target set. -/
def withTarget (i : Fin 7) (x : Target) (s : State) : State :=
  { s with disp := { s.disp with targets := s.disp.targets.set i x } }

/-- A target in use: node 10, channel 3, ACK timeout 100 ms. -/
def target (v : TargetVars) : Target := ⟨⟨true, 10, 3, 0, 100⟩, v, none⟩

/-- A reachable target with nothing outstanding, its next sequence 6. -/
def idleTarget : TargetVars := ⟨6, none, none, none, false, 0, 0, 0, 0⟩

/-- A plain frame. -/
def frameTo (cls : FrameClass) (dst src chan : Nat) (l : List Byte) : Frame :=
  ⟨cls, false, 5, 0, dst, src, chan, .bytes l⟩

/-- A frame's bytes. -/
def wire (f : Frame) : List Byte := (frameBytes f).getD []

/-- A queued frame. -/
def queued (own : Bool) (mark : Option GuardKind) : OutFrame := ⟨frameTo .command 10 1 0 [], own, mark⟩

/-! ### Terms that are not well formed -/

theorem test_wf_node_index_64 : Instr.wf (.writeNodeEntry 0 64 ⟨some .A, []⟩) = false := by decide

theorem test_wf_role_of_nine : Instr.wf (.writeNodeEntry 0 3 ⟨some .A, List.replicate 9 65⟩) = false := by
  decide

theorem test_wf_role_of_eight : Instr.wf (.writeNodeEntry 0 3 ⟨some .A, List.replicate 8 65⟩) = true := by
  decide

theorem test_wf_sensor_index_0 : Instr.wf (.writeSensorEntry 0 0 ⟨10000, 385, 8000, 30000, 50⟩) = false := by
  decide

theorem test_wf_floor_in_table_0 : Instr.wf (.writeVoteTable 0 0 (.floorDelay 2 5)) = false := by decide

theorem test_wf_thresholds_in_table_3 :
    Instr.wf (.writeVoteTable 0 3 (.thresholds (.replicate 7 0))) = false := by decide

theorem test_no_word_spells_a_command : decodeTableWord 16 0x1234 = none := rfl

/-! ### The machine -/

theorem test_witness_front_command :
    let s := { running with pending := [.jobClockAdvance, .stop 1] }
    s.pending = .jobClockAdvance :: [.stop 1] ∧
      step s = exec .jobClockAdvance { s with pending := [.stop 1] } := ⟨rfl, rfl⟩

theorem test_idle_step_takes_due_event :
    (idle { running with heat := { running.heat with elapsed := 2000 } }).pending ≠ [] := by decide +kernel

theorem test_idle_step_passes_a_millisecond :
    (idle { State.reset with bridge := { State.reset.bridge with portA := portUp, portB := portUp } }).travel.park
      = some 59999 := by decide +kernel

/-- A hub with nothing due, and what a millisecond moves and leaves: an EMPTY slot does not age, and the timer of
a suspended erase stands (5.1, R26, R70, 11.4); and a timer at 0, whose event is the one due (log entry 2). -/
theorem test_witness_time_on_an_empty_queue :
    let x : Zone := ⟨State.reset.heat.zones[8].entry, { ZoneVars.reset with temp := some (1395, false), age := 65535 }⟩
    let s := { withTarget 0 (target { idleTarget with outstanding := some ⟨1, 5, 1⟩, ackTimer := some 9 }) base with
      intake := { base.intake with slots := base.intake.slots.set 2 ⟨100, .good, 5, 1000, some 0⟩ }
      heat := { base.heat with zones := base.heat.zones.set 8 { x with vars := { x.vars with stale := true } } }
      archive := { base.archive with erase := .suspended 0 1, eraseTimer := some 7, flush := some 3 } }
    let t := idle s
    let u := { s with map := { s.map with window := some 0 } }
    s.pending = [] ∧ dueEvents s = [] ∧ t.pending = [] ∧ t.disp.targets[0].vars.ackTimer = some 8 ∧
      (t.intake.slots[2].age, t.intake.slots[3].age) = (6, 0) ∧
      (t.heat.zones[8].vars.age, t.heat.zones[7].vars.age, t.heat.elapsed) = (65535, 0, s.heat.elapsed + 1) ∧
      (t.archive.flush, t.archive.eraseTimer) = (some 2, some 7) ∧
      dueEvents u = [.assemblyWindowExpires] ∧ (idle u).pending = [.assemblyWindowExpires] := by decide +kernel

/-- The invariants' premises are met by the hub in RUN with a command waiting. -/
theorem test_witness_invariants :
    let s := { running with pending := [.jobClockAdvance] }
    (∃ t, step s = .next t) ∧ QueuesBounded s ∧ RecordsBounded s ∧ StopSettled s ∧ TargetsWhole s ∧
      Memory.wf s.flash = true := by
  refine ⟨⟨_, rfl⟩, ?_, ?_, ?_, ?_, ?_⟩
  · unfold QueuesBounded portBounded
    decide +kernel
  · unfold RecordsBounded
    decide +kernel
  · unfold StopSettled
    decide +kernel
  · intro t
    have h : ∀ i : Fin 7, running.disp.targets[i].vars = Target.reset.vars ∧
        running.disp.targets[i].waiting = none := by decide +kernel
    have hv := (h t).1
    have hw := (h t).2
    simp only [targetWhole]
    rw [hv, hw]
    exact ⟨rfl, rfl, rfl⟩
  · decide +kernel

theorem test_witness_invariants_of_guards_and_lines :
    GuardsClear running ∧ HeldLinesOff running := by
  refine ⟨fun g => ?_, fun z => ?_⟩
  · cases g <;> decide +kernel
  · revert z
    decide +kernel

theorem test_witness_invariants_of_archive : ArchiveBounded running := by
  have h : running.archive = State.reset.archive := by decide +kernel
  refine ⟨?_, ?_, ?_, ?_, ?_⟩ <;> (try unfold bufferFits) <;> rw [h] <;> first | decide | rfl

theorem test_witness_invariants_of_tables : TablesOrdered State.reset ∧ OneSlope State.reset := by
  refine ⟨⟨?_, ?_, ?_, ?_, ?_, ?_, ?_, ?_, ?_, ?_, ?_⟩, ?_⟩
  all_goals (try unfold sensorOrdered)
  all_goals (try unfold zoneMargins)
  all_goals (try unfold levelOrdered)
  all_goals (try unfold curveOrdered)
  all_goals (try unfold OneSlope)
  all_goals decide +kernel

/-! ### Frames -/

theorem test_crc_check_value :
    crc16 [0x31, 0x32, 0x33, 0x34, 0x35, 0x36, 0x37, 0x38, 0x39] = 0x29B1#16 := by decide +kernel

theorem test_command_frame_from_the_link :
    checkFrame true [57, 138, 1, 0, 2, 1, 2, 6, 239] =
      some ⟨.command, true, 9, 2, 10, 1, 0, .bytes [1, 2]⟩ := by decide +kernel

theorem test_flipped_bit_is_refused : checkFrame true [57, 138, 1, 0, 2, 1, 3, 6, 239] = none := by
  decide +kernel

theorem test_code_group_error_is_refused : checkFrame false [57, 138, 1, 0, 2, 1, 2, 6, 239] = none := by
  decide +kernel

theorem test_sync_frame_bytes : frameBytes (syncFrame 1).frame = some [224, 63, 1, 0, 0, 229, 55] := by
  decide +kernel

/-- The round trip's premises at the ends of their ranges. -/
theorem test_witness_frame_round_trip :
    let f : Frame := ⟨.scan, true, 15, 3, 63, 255, 255, .bytes (List.replicate 40 9)⟩
    f.seq < 16 ∧ f.spare < 4 ∧ f.dst < 64 ∧ f.src < 256 ∧ f.chan < 256 ∧
      checkFrame true (wire f) = some f := by decide +kernel

theorem test_witness_slot_image : slotNumber (slotImage 4294967295 (.mark 1 (-2) 3)) = 4294967295 ∧
    (slotImage 1 (.mark 1 (-2) 3)).take 13 = [3, 0, 0, 0, 1, 0, 0, 0, 1, 255, 255, 255, 254] := by
  decide +kernel

/-! ### The link -/

theorem test_witness_port_errors :
    let bad : Instr := .frameReceived .A true []
    let suspect := fun n : Nat => linked { portUp with state := .suspect, window := n } portUp base
    checkFrame true [] = none ∧ StopSettled base ∧
      getPort (after bad base).bridge .A =
        { portUp with errors := 1, state := .suspect, window := 1, windowTimer := some 100 } ∧
      (getPort (after bad (suspect 2)).bridge .A).window = 3 ∧
      (getPort (after bad (suspect 3)).bridge .A).state = .retrain ∧
      (getPort (after bad (suspect 3)).bridge .A).errors = 1 ∧
      (condEntry (after bad (suspect 3)).log .linkARetrain).count = 1 ∧
      (getPort (after bad (linked .reset portUp base)).bridge .A).errors = 1 ∧
      (getPort (after bad (linked portDown portUp base)).bridge .A).state = .down := by
  exact ⟨by decide +kernel, by unfold StopSettled; decide +kernel, by decide +kernel⟩

/-- A reply and a command that wait for a port count as sent when it enters RETRAIN, and a BUSY is not among them
(R3, R136, R174). -/
theorem test_witness_waiting_frames_at_retrain :
    let f := frameTo .reply 1 2 1 []
    let s := { withTarget 4 ⟨⟨true, 1, 3, 0, 70⟩, { idleTarget with outstanding := some ⟨1, 5, 1⟩ }, some (.A, f)⟩
        (linked { portUp with state := .suspect, window := 3 } portUp base) with
      mgmt := { base.mgmt with request := some ⟨1, 3, 1, .plain⟩, waitingReply := some (.A, f), lastBusy := 16 } }
    let t := after (.frameReceived .A true []) s
    (t.mgmt.request, t.mgmt.waitingReply, t.mgmt.lastBusy) = (none, none, 16) ∧
      t.disp.targets[4].waiting = none ∧ t.disp.targets[4].vars.ackTimer = some 70 := by decide +kernel

/-- The discards of the entry into RETRAIN here: the two queued frames and the entry's own notice, which leaves by
the same port (R3, R16). -/
theorem test_witness_syncs :
    let sync : Instr := .frameReceived .A true [224, 63, 1, 0, 0, 229, 55]
    let at_ := fun r : PortRec => getPort (after sync (linked r portUp base)).bridge .A
    checkFrame true [224, 63, 1, 0, 0, 229, 55] = some ⟨.linkctl, false, 0, 0, 63, 1, 0, .bytes []⟩ ∧
      (at_ { portUp with settle := some 3 }).state = .up ∧ (at_ portUp).state = .suspect ∧
      (let q := { portUp with
        state := .suspect
        window := 1
        syncs := [syncFrame 2]
        normalQ := [queued true none, queued false none] }
       let w := at_ q
       (w.state, w.received, w.errors, w.discards, w.syncs) = (.retrain, 1, 1, 3, [])) ∧
      (at_ .reset).state = .up ∧ (at_ .reset).settle = some 5 ∧ (at_ .reset).sending = some (syncFrame 2) ∧
      (at_ portDown).state = .up := by decide +kernel

theorem test_witness_frames_routed :
    let f := frameTo .command 10 1 0 [1]
    let c : Instr := .frameReceived .A true (wire f)
    let full := { portUp with
      sending := some (queued true none)
      normalQ := List.replicate 12 (queued false none) }
    checkFrame true (wire f) = some f ∧ base.bridge.nodes[ix 63 f.dst].side ≠ portSide .A ∧
      decidingEntry base.bridge f = none ∧ f.dst ≠ base.bridge.ownNode ∧
      (after c base).bridge.portB.sending = some ⟨f, false, none⟩ ∧
      (after c (linked portUp portDown base)).bridge.portB.discards = 1 ∧
      passCount (after c (linked portUp full base)).bridge.portB = 12 ∧
      (after c (linked portUp full base)).bridge.portB.discards = 1 ∧
      (condEntry (after c (linked portUp full base)).log .forwardDrop).count = 1 ∧
      (after (.frameReceived .B true (wire f)) base).bridge.portA.sending = none := by decide +kernel

/-- Good frames that go no further: one for the own node, one of source 63, and one at a port in RETRAIN (R1, R8). -/
theorem test_witness_frames_dropped :
    let go := fun (r : PortRec) (f : Frame) =>
      (after (.frameReceived .A true (wire f)) (linked r portUp base)).bridge
    let own := base.bridge.ownNode
    let counts := fun r f => ((go r f).portA.received, (go r f).portA.discards, (go r f).portB.sending)
    counts portUp (frameTo .command own 1 0 [1]) = (1, 1, none) ∧
      counts portUp (frameTo .sense own 1 0 [1]) = (1, 1, none) ∧
      counts portUp (frameTo .command 10 63 0 [1]) = (1, 1, none) ∧
      counts .reset (frameTo .command own 1 0 [1]) = (1, 0, none) ∧
      counts portDown (frameTo .command 10 1 0 [1]) = (1, 0, none) := by decide +kernel

/-- The worked sequence of 1.7, steps 0 to 3: a queue of 11 pass-through and 3 own frames. -/
theorem test_admission_at_a_busy_port :
    let q := { portUp with
      sending := some (queued true none)
      normalQ := List.replicate 11 (queued false none) ++ List.replicate 3 (queued true none) }
    let s1 := after (.frameReceived .A true (wire (frameTo .command 10 1 0 [1]))) (linked portUp q base)
    let s2 := after (.frameReceived .A true (wire (frameTo .command 10 1 0 [1]))) s1
    depth s1.bridge.portB = 15 ∧ passCount s1.bridge.portB = 12 ∧ depth s2.bridge.portB = 15 ∧
      s2.bridge.portB.discards = 1 ∧ (offerOwn s2.bridge (frameTo .command 10 2 0 [])).2 = .admitted := by
  decide +kernel

/-- A filter entry that guards side B's node 10. -/
def guarded (s : State) : State :=
  let e : FilterEntry := ⟨true, .command, none, some 10, 0, 255, .guard .feedL, 0⟩
  { s with bridge := { s.bridge with filters := s.bridge.filters.set 3 e } }

/-- A feed side's record set. -/
def withFeed (v : FeedVars) (s : State) : State :=
  { s with feed := { s.feed with left := { s.feed.left with vars := v } } }

theorem test_witness_closed_guard :
    let f := frameTo .command 10 1 0 [1]
    let s := guarded (withFeed { FeedVars.reset with mode := .auto } running)
    let t := after (.frameReceived .A true (wire f)) s
    checkFrame true (wire f) = some f ∧ decidingEntry s.bridge f = some 3 ∧ guardClosed s .feedL = true ∧
      t.bridge.filters[3].hits = 1 ∧ (condEntry t.log .guardBlock).count = 1 ∧
      t.bridge.portB.sending = none := by decide +kernel

theorem test_open_guard_marks_its_frame :
    let t := after (.frameReceived .A true (wire (frameTo .command 10 1 0 [1]))) (guarded base)
    t.bridge.portB.sending = some ⟨frameTo .command 10 1 0 [1], false, some .feedL⟩ := by decide +kernel

theorem test_witness_port_timers :
    let suspect := linked { portUp with state := .suspect, window := 2, windowTimer := some 0 } portUp base
    let settling := linked { portUp with settle := some 0 } portUp base
    (getPort (after (.windowTimerExpires .A) suspect).bridge .A) = portUp ∧
      (getPort (after (.settleTimerExpires .A) settling).bridge .A) = portUp ∧
      (getPort (after (.downRetryTimerExpires .A) (linked portDown portUp base)).bridge .A).attempt = some 20 ∧
      (getPort (after (.syncTimerExpires .A) State.reset).bridge .A).sending = some (syncFrame 2) := by
  decide +kernel

theorem test_witness_attempt_ends :
    let s := fun r : Nat => linked { PortRec.reset with retrains := r } portUp base
    (getPort (after (.retrainAttemptEnds .A) (s 1)).bridge .A).retrains = 2 ∧
      (getPort (after (.retrainAttemptEnds .A) (s 1)).bridge .A).state = .retrain ∧
      (getPort (after (.retrainAttemptEnds .A) (s 2)).bridge .A).state = .down ∧
      isActive (after (.retrainAttemptEnds .A) (s 2)) .linkADown = true ∧
      (getPort (after (.retrainAttemptEnds .A) (linked { portDown with attempt := some 0 } portUp base)).bridge
        .A).attempt = none := by decide +kernel

theorem test_witness_sendings_follow :
    let u : OutFrame := ⟨{ frameTo .command 10 1 0 [] with urgent := true }, false, none⟩
    let s := fun r : PortRec => after (.frameSendEnds .B)
      (linked portUp { r with sending := some (queued true none) } base)
    (s { portUp with syncs := [syncFrame 2], urgentQ := [u] }).bridge.portB.sending = some (syncFrame 2) ∧
      (s { portUp with urgentQ := [u], normalQ := [queued true none] }).bridge.portB.sending = some u ∧
      (s { portUp with normalQ := [queued true none] }).bridge.portB.normalQ = [] ∧
      (s portUp).bridge.portB = portUp := by decide +kernel

theorem test_witness_waiting_frames :
    let f := frameTo .reply 10 2 1 []
    let reply := { base with mgmt := { base.mgmt with
      request := some ⟨1, 3, 1, .plain⟩, waitingReply := some (.B, f) } }
    let notice := { base with log := { base.log with waiting := [(.linkADown, .A, f), (.zoneFault, .B, f)] } }
    let command := withTarget 4 ⟨⟨true, 10, 3, 0, 70⟩, idleTarget, some (.B, f)⟩ base
    let c : Instr := .waitingFrameAdmitted .B
    (after c reply).mgmt.request = none ∧ (after c reply).bridge.portB.sending = some ⟨f, true, none⟩ ∧
      (after c notice).log.waiting = [(.linkADown, .A, f)] ∧
      (after c command).disp.targets[4].vars.ackTimer = some 70 ∧
      (after c command).disp.targets[4].waiting = none := by decide +kernel

/-- The conditions of R11 at their ends. -/
theorem test_witness_fitting_entries :
    let e : FilterEntry := ⟨true, .command, some 1, some 10, 3, 5, .pass, 0⟩
    let fits := fun (f : Frame) (e : FilterEntry) => decide (Fits f e)
    let f := fun (src dst chan : Nat) => frameTo .command dst src chan []
    [fits (f 1 10 3) e, fits (f 1 10 5) e, fits (f 9 10 3) { e with src := none }] = [true, true, true] ∧
      [fits (f 1 10 2) e, fits (f 1 10 6) e, fits (f 9 10 3) e, fits (f 1 11 3) e,
        fits (frameTo .ack 10 1 3 []) e, fits (f 1 10 3) { e with valid := false }] = List.replicate 6 false := by
  decide +kernel

/-- The entry that decides a frame, with one that does not match before it, and no such entry. -/
theorem test_witness_deciding_entries :
    Decides (guarded base).bridge (frameTo .command 10 1 0 []) 3 ∧
      ∀ i : Fin 24, ¬Fits (frameTo .command 10 1 0 []) base.bridge.filters[i] := by
  refine ⟨⟨by decide +kernel, ?_⟩, ?_⟩ <;> decide +kernel

/-- An own frame at a port in UP, in DOWN and with 16 frames queued (R16). -/
theorem test_witness_offers :
    let f := frameTo .command 10 2 0 []
    let full := { portUp with sending := some (queued true none), normalQ := List.replicate 16 (queued true none) }
    let o := fun r : PortRec => offerOwn (linked portUp r base).bridge f
    ((o portUp).2, (o portDown).2, (o full).2) = (.admitted, .dropped, .refused) ∧
      (o portUp).1.portB.sending = some ⟨f, true, none⟩ ∧ (o portDown).1.portB.discards = 1 ∧
      (o full).1.portB = full ∧ portFor base.bridge 33 = .A := by decide +kernel

/-! ### Intake, travel and geometry -/

/-- Entry 5 of the worked case of 2.3. -/
def gradeEntry : IntakeEntry := ⟨true, 20, 4, 2, 2, true, 1, 2, 120, 2, 200⟩

theorem test_scaling_worked_case :
    rawValue gradeEntry [0, 0, 238, 37] = some (-4571) ∧ intoRole 2 (scaleRaw gradeEntry (-4571)) = (-2166, .good) ∧
      intoRole 2 (scaleRaw gradeEntry 10111) = (5000, .clamped) ∧ rawValue gradeEntry [0, 0, 238] = none := by
  decide +kernel

theorem test_scaling_level_worked_case :
    let e : IntakeEntry := ⟨true, 24, 1, 0, 2, false, -1, 10, 650, 5, 1000⟩
    intoRole 5 (scaleRaw e 3127) = (337, .good) ∧ intoRole 5 (scaleRaw e 6640) = (0, .clamped) := by
  decide +kernel

theorem test_sense_frame_writes_its_slot :
    let s := after (.frameReceived .A true [3, 63, 20, 4, 4, 0, 0, 238, 37, 148, 72]) (withEntry 5 gradeEntry base)
    s.intake.slots[2] = ⟨-2166, .good, 0, 200, some 5⟩ ∧ s.intake.entries[5].applied = 1 := by decide +kernel

theorem test_short_payload_is_malformed :
    let s := after (.frameReceived .A true [3, 63, 20, 4, 2, 0, 0, 234, 14]) (withEntry 5 gradeEntry base)
    (condEntry s.log .senseMalformed).count = 1 ∧ s.intake.slots[2] = .reset := by decide +kernel

/-- The slot of the worked case of 2.4 at 350 ms. -/
theorem test_witness_slot_staleness :
    let s := withEntry 5 gradeEntry base
    let s := { s with intake := { s.intake with slots := s.intake.slots.set 2 ⟨-2170, .good, 199, 200, some 5⟩ } }
    let t := after (.slotStalenessExpires 2) s
    s.intake.slots[2].quality = .good ∧ t.intake.slots[2] = ⟨-2170, .stale, 200, 200, some 5⟩ ∧
      isActive t .slotStale = true := by decide +kernel

theorem test_witness_park_timer :
    let s := { running with travel := { running.travel with park := some 0 } }
    s.travel.motion = .stopped ∧ (after .parkTimerExpires s).travel.motion = .parked ∧
      (after .parkTimerExpires s).travel.park = none ∧ (after .parkTimerExpires s).map.motion = .parked := by
  decide +kernel

/-- The worked case of 3.2: counts, a wrap and a jump. -/
theorem test_counts_worked_case :
    let s := { base with travel := { base.travel with
      station := 51200, highWater := 51200, baseline := some 2147483600 } }
    let s1 := travelCount (-2147483626) (travelCount 2147483640 s)
    let s2 := travelCount 2147483620 s1
    let s3 := travelCount (-2147423676) s2
    let s4 := travelCount (-2147423596) s3
    (s1.travel.station, s1.travel.highWater) = (51270, 51270) ∧
      (s2.travel.station, s2.travel.highWater) = (51220, 51270) ∧
      (s3.travel.station, s3.travel.baseline) = (51220, some (-2147423676)) ∧
      (condEntry s3.log .travelJump).count = 1 ∧ (s4.travel.station, s4.travel.highWater) = (51300, 51300) := by
  decide +kernel

/-- The worked case of 3.4: widths and the active range. -/
theorem test_widths_worked_case :
    let s := extension .right 800 (extension .left 1250 base)
    (s.travel.leftHalf, s.travel.rightHalf, s.travel.cLo, s.travel.cHi) = (2750, 2300, 18, 43) ∧
      (extension .left 1100 s).travel.cLo = 19 ∧ (extension .left 1400 s).travel.cLo = 17 ∧
      s.feed.leftHalf = 2750 ∧ (s.map.cLo, s.map.cHi) = (18, 43) := by decide +kernel

/-- Filter entry 3 set, for a class and an action, toward any node. -/
def filtering (cls : FrameClass) (a : FilterAction) (s : State) : State :=
  { s with bridge := { s.bridge with filters := s.bridge.filters.set 3 ⟨true, cls, none, none, 0, 255, a, 0⟩ } }

/-- A broadcast SENSE frame of node 20 passed, blocked and guarded, read by entry 5 in each case. -/
theorem test_witness_filter_actions :
    let f : Frame := ⟨.sense, false, 3, 0, 63, 20, 4, .bytes [0, 0, 238, 37]⟩
    let c : Instr := .frameReceived .A true [3, 63, 20, 4, 4, 0, 0, 238, 37, 148, 72]
    let s := fun a => filtering .sense a (withEntry 5 gradeEntry base)
    let run := filtering .sense (.guard .feedL)
      (withEntry 5 gradeEntry (withFeed { FeedVars.reset with mode := .auto } running))
    let hits := fun t : State => (t.bridge.filters[3].hits, t.intake.entries[5].applied)
    checkFrame true [3, 63, 20, 4, 4, 0, 0, 238, 37, 148, 72] = some f ∧
      decidingEntry (s .pass).bridge f = some 3 ∧
      (after c (s .pass)).bridge.portB.sending = some ⟨f, false, none⟩ ∧ hits (after c (s .pass)) = (1, 1) ∧
      (after c (s .block)).bridge.portB.sending = none ∧ hits (after c (s .block)) = (1, 1) ∧
      (after c (s (.guard .feedL))).bridge.portB.sending = some ⟨f, false, some .feedL⟩ ∧
      guardClosed run .feedL = true ∧ (after c run).bridge.portB.sending = none ∧ hits (after c run) = (1, 1) ∧
      (condEntry (after c run).log .guardBlock).count = 1 := by decide +kernel

/-- A SENSE frame of node 20 to a node of its own segment is read and not forwarded. -/
theorem test_witness_sense_frame :
    let f := frameTo .sense 21 20 4 [0, 0, 238, 37]
    let s := withNode 21 .A (withEntry 5 gradeEntry base)
    let t := after (.frameReceived .A true (wire f)) s
    checkFrame true (wire f) = some f ∧ s.bridge.nodes[ix 63 f.dst].side = portSide .A ∧
      t.intake.slots[2] = ⟨-2166, .good, 0, 200, some 5⟩ ∧ t.bridge.portB.sending = none := by decide +kernel

/-- Speeds at the ends of the stop band, from PARKED and STOPPED too (R35, R36). -/
theorem test_witness_speed_classes :
    let s := fun m => { running with travel := { running.travel with motion := m } }
    let stop : Int := running.travel.params.stopSpeed
    let at_ := fun m v => (travelSpeed v (s m)).travel
    ((at_ .stopped (stop + 1)).motion, (at_ .stopped stop).motion) = (.forward, .stopped) ∧
      ((at_ .parked (-stop)).motion, (at_ .parked (-stop - 1)).motion) = (.parked, .reverse) ∧
      (at_ .forward 0).park = some 60000 ∧ (at_ .forward (stop + 1)).park = (s .forward).travel.park ∧
      (travelSpeedStale (s .forward)).travel.motion = .stopped ∧
      (travelSpeedStale (s .forward)).voter.travelInput = 0 ∧
      (travelSpeed (stop + 1) (s .stopped)).feed.motion = .forward := by decide +kernel

theorem test_unchanged_width_reports_nothing :
    let s := extension .left 0 base
    s.feed.leftHalf = base.feed.leftHalf ∧ s.map = base.map ∧ extension .left 0 s = s := by decide +kernel

/-! ### Resistance measurement -/

/-- Line 7 of the worked cases of 4.6. -/
def lineEntry : SensorEntry := ⟨10000, 385, 8000, 30000, 50⟩

theorem test_conversion_worked_cases :
    convert ⟨.window, 4, 8192, 15000, 1, 65534⟩ lineEntry 20000 19017 = (.temp 1500 false, some 15775) ∧
      convert ⟨.period, 4, 8192, 15000, 1, 65534⟩ lineEntry 12000 10883 = (.temp 936 false, some 13604) := by
  decide +kernel

/-- R51's limits on a resistance, at their ends. -/
theorem test_resistance_limits :
    let line := fun r => (convert ⟨.window, 4, 8192, r, 1, 65534⟩ { lineEntry with sens := 1000 } 1 1).1
    (line 30001, line 30000, line 8000, line 7999) =
      (.fails .opened, .temp 2000 false, .temp (-200) false, .fails .short) := by decide +kernel

/-- The table of R52: halves and the two clamps. -/
theorem test_temperature_table :
    let at_ := fun s => temperature { lineEntry with sens := s }
    [at_ 385 15775, at_ 385 9600, at_ 200 10003, at_ 200 9997, at_ 385 22000, at_ 385 8100] =
      [(1500, false), (-104, false), (2, false), (-2, false), (3000, true), (-400, true)] := by decide +kernel

theorem test_witness_half_goes_away_from_zero :
    NearestAway 300 200 2 ∧ ¬NearestAway 300 200 1 ∧ NearestAway (-300) 200 (-2) := by
  unfold NearestAway; decide

theorem test_counter_limits :
    convert ⟨.window, 4, 8192, 15000, 1, 65534⟩ lineEntry 20000 0 = (.fails .opened, none) ∧
      convert ⟨.period, 4, 8192, 15000, 1, 65534⟩ lineEntry 20000 0 = (.fails .short, none) := by
  decide +kernel

/-- The worked case of 4.7: five retries. -/
theorem test_retries_worked_case :
    testRetry 50 (some 1500) (some (.temp 1620 false)) (.temp 1615 false) = .accepted 1615 false ∧
      testRetry 50 (some 1500) (some (.temp 1620 false)) (.temp 1503 false) = .accepted 1503 false ∧
      testRetry 50 (some 1500) (some (.fails .opened)) (.temp 1498 false) = .accepted 1498 false ∧
      testRetry 50 (some 1500) (some (.temp 1620 false)) (.temp 1700 false) = .failed .jump ∧
      testRetry 50 (some 1500) (some (.temp 1620 false)) (.fails .opened) = .failed .opened := by
  decide +kernel

/-- A hub that counts: lines 7 and 9 listed. -/
def counting_ (c : Counting) (s : State) : State :=
  { s with rmu := { s.rmu with
    sweepList := [7, 9]
    counting := some c
    sweepRef := some 20000
    ref := ⟨.window, 4, 8192, 15000, 18000, 22000⟩ } }

theorem test_witness_reference_counts :
    let s := counting_ ⟨0, 0, .first, none, none⟩ base
    let s1 := after (.referenceCountEnds 20012) s
    let old := { s1 with rmu := { s1.rmu with counting := some ⟨0, 0, .first, none, none⟩, refAge := 2 } }
    let last := { s1 with rmu := { s1.rmu with counting := some ⟨0, 0, .first, none, none⟩, refAge := 3 } }
    s1.rmu.heldRef = some 20012 ∧ s1.rmu.counting = some ⟨7, 0, .first, none, none⟩ ∧
      (after (.referenceCountEnds 0) old).rmu.sweepRef = some 20012 ∧
      (after (.referenceCountEnds 0) old).rmu.refAge = 3 ∧
      (after (.referenceCountEnds 0) last).rmu.sweepRef = none ∧
      isActive (after (.referenceCountEnds 0) last) .refFail = true := by decide +kernel

theorem test_witness_first_counts :
    let s := counting_ ⟨7, 0, .first, none, none⟩ base
    let noRef := { s with rmu := { s.rmu with sweepRef := none } }
    let t := after (.firstCountEnds 19017) s
    let u := after (.firstCountEnds 0) s
    t.rmu.lines[6].vars.lastAccepted = some 1500 ∧ t.rmu.lines[6].vars.state = .good ∧
      t.rmu.counting = some ⟨9, 1, .first, none, none⟩ ∧
      u.rmu.counting = some ⟨7, 0, .retry, some (.fails .opened), none⟩ ∧
      (after (.firstCountEnds 19017) noRef).rmu.lines[6].vars.lastResult = some .noReference := by
  decide +kernel

theorem test_witness_retry_counts :
    let s := counting_ ⟨7, 0, .retry, some (.fails .opened), none⟩ base
    let v := (after (.retryCountEnds 0) s).rmu.lines[6].vars
    (v.state, v.faults, v.lastResult) = (.suspect, 1, some (.failed .opened)) ∧
      (after (.retryCountEnds 19017) s).rmu.lines[6].vars.lastAccepted = some 1500 := by decide +kernel

theorem test_witness_period_limit :
    let s := counting_ ⟨7, 0, .first, none, some 0⟩ base
    let s := { s with rmu := { s.rmu with ref := { s.rmu.ref with mode := .period } } }
    (after .periodLimitExpires s).rmu.lines[6].vars.lastRaw = some 65535 ∧
      (after .periodLimitExpires s).rmu.counting = some ⟨7, 0, .retry, some (.fails .opened), some 40⟩ := by
  decide +kernel

/-- The worked sequence of 4.8: a line that fails with its third fault and recovers with eight results. -/
theorem test_line_health_worked_sequence :
    let v := Nat.repeat (lineFails .opened) 3 { LineVars.reset with state := .good, lastAccepted := some 1399 }
    (v.state, v.faults, v.lastAccepted) = (.failed, 3, some 1399) ∧
      (Nat.repeat (lineAccepted 1216 false) 7 v).state = .failed ∧
      (Nat.repeat (lineAccepted 1216 false) 8 v).state = .good := by decide +kernel

theorem test_gate_ends_its_count :
    let s := { counting_ ⟨7, 0, .first, none, none⟩ base with mgmt := { base.mgmt with second := some 9 } }
    let s := { s with rmu := { s.rmu with gate := some 0 } }
    s.rmu.counting.isSome = true ∧ (beginCount 7 0 .first none s.rmu).gate = some 4 ∧
      gateEnds s.marks s.rmu = [.firstCountEnds (Config.edgesCounted s.marks s.rmu.counts 7)] :=
  ⟨rfl, rfl, rfl⟩

theorem test_gate_falls_due :
    let s := counting_ ⟨7, 0, .first, none, none⟩ base
    let at_ := fun n => idle { s with rmu := { s.rmu with gate := some n } }
    (at_ 0).pending.isEmpty = false ∧ (at_ 1).pending = [] ∧ (at_ 1).rmu.gate = some 0 := by decide +kernel

/-! ### Heating and power -/

/-- A zone in REGULATE or WARMUP. -/
def zone (e : ZoneEntry) (st : ZoneState) (t : Int) : Zone :=
  ⟨{ e with enable := true }, { ZoneVars.reset with state := st, temp := some (t, false) }⟩

/-- The worked case of 5.5: demand. -/
theorem test_demand_worked_case :
    let e := { zoneEntryDefault 1 with setpoint := 1400, gain := 20, hold := 60 }
    lawDuty e 45 = 150 ∧ lawDuty e (-37) = 0 ∧ lawDuty e (-7) = 46 ∧ lawDuty e 97 = 254 ∧
      lawDuty { e with gain := 15 } 45 = 127 ∧ lawDuty { e with gain := 15, hold := 100 } (-45) = 33 := by
  decide +kernel

/-- The worked case of 5.6: boost over eight rows. -/
theorem test_boost_worked_case :
    let e := { zoneEntryDefault 5 with trigger := 200, boostStep := 10, boostMax := 30 }
    boostAfter e 0 6 0 = 0 ∧ boostAfter e 0 6 2 = 10 ∧ boostAfter e 10 6 1 = 10 ∧ boostAfter e 10 4 1 = 20 ∧
      boostAfter e 30 6 4 = 30 ∧ boostAfter e 30 0 0 = 30 ∧ boostAfter e 30 6 0 = 20 := by decide +kernel

/-- The worked case of 5.1: margin checks. -/
theorem test_margin_worked_case :
    let e := { zoneEntryDefault 6 with setpoint := 1800, boostMax := 200, ceiling := 2100 }
    checkZone false [] 6 e { e with setpoint := 1900 } = .accept e true ∧
      checkZone false [] 6 e { e with boostMax := 250 } = .refuse .badValue ∧
      checkZone false [] 6 e { e with ceiling := 2050 } = .refuse .badValue ∧
      checkZone false [] 6 e { e with ceiling := 2200, setpoint := 1900 } =
        .accept { e with ceiling := 2200, setpoint := 1900 } false ∧
      checkZone false [] 6 e { e with setpoint := 2700 } = .accept e true := by decide +kernel

/-- The hub in RUN with heating on and one zone. -/
def heated (x : Zone) : State :=
  { running with heat := { running.heat with master := true, zones := running.heat.zones.set 8 x } }

theorem test_witness_zone_stale :
    let e := { zoneEntryDefault 8 with first := 30, last := 33 }
    let s := heated (zone e .regulate 1395)
    let t := after (.zoneStaleExpires 8) s
    s.heat.zones[8].vars.temp.isSome = true ∧ s.heat.zones[8].vars.stale = false ∧
      t.heat.zones[8].vars.state = .fault ∧ t.heat.zones[8].vars.temp = some (1395, false) ∧
      isActive t .zoneFault = true := by decide +kernel

/-- The worked sequence of 5.8: a line through two periods. -/
theorem test_witness_heater_line :
    let e := { zoneEntryDefault 8 with first := 30, last := 33 }
    let s := heated { zone e .regulate 1395 with vars := { (zone e .regulate 1395).vars with alloc := 150 } }
    let t := after .heaterPeriodStart s
    let u := after (.heaterOnTimeEnds 8) { t with heat := { t.heat with elapsed := 1176 } }
    onTime 2 150 = 1176 ∧ onTime 2 130 = 1019 ∧ onTime 2 100 = 784 ∧
      (t.heat.zones[8].vars.periodDuty, t.heat.zones[8].vars.lineOn, t.heat.elapsed) = (150, true, 0) ∧
      t.heat.zones[7].vars.lineOn = false ∧ u.heat.zones[8].vars.lineOn = false := by decide +kernel

/-- Records of the worked cases of 6.3. -/
def rec_ (rating demand cls : Nat) : AllocRec := { AllocRec.reset with rating := rating, demand := demand, cls := cls }

/-- The zones of the worked cases of 6.3. -/
def recs : Vector AllocRec 16 :=
  ((((Vector.replicate 16 AllocRec.reset).set 0 (rec_ 2000 255 0)).set 1 (rec_ 2000 200 0)).set 2
    (rec_ 3000 255 1)).set 3 (rec_ 3000 255 1) |>.set 4 (rec_ 2500 128 2)

/-- The worked cases of 6.3: allocation at full budget and in sag. -/
theorem test_witness_allocation :
    (∀ i : Fin 16, recs[i].cls ≤ 3) ∧
      ((allocateAll 10000 recs).toList.take 5).map (fun r => (r.granted, r.alloc)) =
        [(2000, 255), (1568, 200), (3000, 255), (3000, 255), (432, 44)] ∧
      ((allocateAll 6000 recs).toList.take 5).map (fun r => (r.granted, r.alloc)) =
        [(2000, 255), (1568, 200), (1216, 103), (1216, 103), (0, 0)] ∧ totalDemand recs = 10822 := by
  decide +kernel

theorem test_witness_supply :
    let on := { running with power := { running.power with entry := { running.power.entry with select := 3 } } }
    let s1 := after .supplyFalls on
    let s2 := after .debounceTimerExpires s1
    let s3 := after .supplyRises s2
    (s1.power.sag, s1.power.debounce) = (.dipping, some 200) ∧ (after .supplyRises s1).power.sag = .normal ∧
      s2.power.sag = .sag ∧ isActive s2 .supplySag = true ∧ heatingVote s2.voter = 7 ∧
      budgetNow s2.power = 12000 ∧ (s3.power.sag, s3.power.recover) = (.recovering, some 5000) ∧
      (after .recoverTimerExpires s3).power.sag = .normal ∧
      isActive (after .recoverTimerExpires s3) .supplySag = false ∧ after .supplyFalls running = running := by
  decide +kernel

/-- The worked sequence of 6.5 at its first row. -/
theorem test_votes_worked_sequence :
    let v := { Voter.reset with
      heatInput := 10822
      heatRight := true
      feedInput := 600
      feedRight := true
      travelInput := 300
      travelRight := true }
    (heatingVote v, feedVote v, travelVote v, resolvedLevel v) = (5, 4, 3, 5) ∧
      resolvedLevel { v with sagStarted := true } = 7 ∧ feedVote { v with feedInput := 900 } = 6 := by
  decide +kernel

theorem test_witness_down_delay :
    let v := { running.voter with requested := 7, timer := some 0, feedInput := 900, feedRight := true }
    let s := { running with voter := v }
    s.mgmt.mode = .run ∧ (after .downDelayExpires s).voter.requested = 6 ∧
      (after .downDelayExpires s).voter.timer = none := by decide +kernel

/-- R67 and R69: zones 0 and 1 share line 1, zone 1 stands on zone 0, zone 2 on zone 1. -/
theorem test_lost_source_reaches_every_dependent :
    let e := fun line buddy =>
      { zoneEntryDefault 8 with enable := true, primary := line, spare := none, buddy := buddy }
    let v := fun source => { ZoneVars.reset with temp := some (900, false), source := source }
    let z := fun line buddy source => (⟨e line buddy, v source⟩ : Zone)
    let failed := { LineVars.reset with state := .failed }
    let s := { running with
      rmu := { running.rmu with
        lines := (running.rmu.lines.set 0 ⟨lineEntry, failed⟩).set 1 ⟨lineEntry, failed⟩ }
      heat := { running.heat with zones := 
        ((running.heat.zones.set 0 (z 1 none .primary)).set 1 (z 1 (some 0) .primary)).set 2 (z 2 (some 1) .buddy) } }
    let t := reselect 0 s
    let u := reselect 0 { t with rmu := running.rmu }
    (t.heat.zones[0].vars.source, t.heat.zones[1].vars.source, t.heat.zones[2].vars.source) =
        (.none, .none, .none) ∧ t.heat.zones[2].vars.temp = none ∧ t.heat.zones[1].vars.temp = none ∧
      (u.heat.zones[1].vars.source, u.heat.zones[2].vars.source) = (.primary, .primary) := by decide +kernel

/-- A budget that ends with class 0, and one a watt below (R91). -/
theorem test_allocation_at_a_class_end :
    let a := fun b => ((allocateAll b recs).toList.take 5).map (fun r => (r.granted, r.alloc))
    a 3568 = [(2000, 255), (1568, 200), (0, 0), (0, 0), (0, 0)] ∧
      a 3567 = [(1999, 254), (1567, 199), (0, 0), (0, 0), (0, 0)] ∧
      a 10822 = [(2000, 255), (1568, 200), (3000, 255), (3000, 255), (1254, 128)] ∧
      (allocateAll 3567 recs)[1].shed = true ∧ (allocateAll 3568 recs)[1].shed = false := by decide +kernel

/-- The four sources of a zone (R67). -/
theorem test_witness_sources :
    let e := { zoneEntryDefault 8 with primary := 1, spare := some 2, buddy := some 3 }
    let helper : Zone := ⟨{ zoneEntryDefault 3 with enable := true }, { ZoneVars.reset with source := .primary }⟩
    let bad := fun l : List Nat => { running with
      rmu := { running.rmu with lines := tab fun i =>
        ⟨lineEntry, { LineVars.reset with state := if l.contains (i.val + 1) then .failed else .good }⟩ }
      heat := { running.heat with zones := running.heat.zones.set 3 helper } }
    let src := fun (e : ZoneEntry) (l : List Nat) => (selectOne 8 { bad l with heat := { (bad l).heat with
      zones := (bad l).heat.zones.set 8 (zone e .regulate 900) } }).heat.zones[8].vars
    (src e []).source = .primary ∧ (src e [1]).source = .spare ∧ (src e [1, 2]).source = .buddy ∧
      (src { e with buddy := none } [1, 2]).source = .none ∧
      (src { e with buddy := some 4 } [1, 2]).source = .none ∧
      (src { e with spare := none } [1]).source = .buddy := by decide +kernel

/-- The states at the edges of the warm band, and what they ask for (R71 to R74). -/
theorem test_witness_zone_states :
    let e := { zoneEntryDefault 8 with setpoint := 1400, warmBand := 50, first := 30, last := 33 }
    let s := fun st t => reviewZone 8 (heated { zone e st t with
      vars := { (zone e st t).vars with source := .primary } })
    let v := fun st t => (s st t).heat.zones[8].vars
    let warm := s .warmup 1400
    let again := fun t : State => (reviewZone 8 t).heat.zones[8].vars.state
    ((v .warmup 1349).state, (v .warmup 1350).state) = (.warmup, .regulate) ∧
      ((v .regulate 1300).state, (v .regulate 1299).state) = (.regulate, .warmup) ∧
      ((v .warmup 1349).demand, (v .warmup 1400).demand) = (255, lawDuty e 0) ∧
      again { warm with travel := { warm.travel with motion := .parked } } = .standby ∧
      again { warm with heat := { warm.heat with master := false } } = .disabled ∧
      again { warm with travel := { warm.travel with cHi := 29 } } = .idle ∧
      again { warm with travel := { warm.travel with cHi := 30 } } = .regulate := by
  decide +kernel

/-- OVERTEMP at the ceiling and 5.0 degrees below it (R77). -/
theorem test_witness_overtemp :
    let e := { zoneEntryDefault 8 with enable := true, ceiling := 2000 }
    [1999, 2000, 1950, 1951].map (fun t => (overtempAfter e t false, overtempAfter e t true)) =
      [(false, true), (true, true), (false, false), (false, true)] ∧
      overtempAfter { e with enable := false } 2000 false = false := by decide +kernel

/-! ### Levelling, feed and commands -/

/-- The worked case of 7.6: commands. -/
theorem test_valve_worked_case :
    let e : LevelEntry := ⟨20, 10, 4, 100, 10, 25, 80, 600⟩
    e.minimum ≤ e.maximum ∧ valveCommand e 37 = 147 ∧ valveCommand e (-8) = 0 ∧ valveCommand e 11 = 82 ∧
      valveCommand e (-400) = -600 ∧ valveCommand e 10 = 0 := by decide +kernel

/-- The profile of the worked case of 7.7. -/
def profile : Vector ProfileEntry 64 :=
  (((Vector.replicate 64 ⟨false, 0, 0, 0, 0⟩).set 3 ⟨true, 10000, 0, 0, 0⟩).set 4
    ⟨true, 12000, 150, 0, 0⟩).set 7 ⟨true, 14000, -30, 0, 0⟩

theorem test_witness_profile :
    (profileStations profile).Pairwise (· < ·) ∧
      [9000, 10750, 12000, 12250, 14000, 15000].map (profileAt profile .left) = [0, 56, 150, 127, -30, -30] ∧
      beyondEnd profile 14000 = false ∧ beyondEnd profile 15000 = true := by decide +kernel

/-- The worked case of 8.2: the default curve and one that the console writes. -/
theorem test_witness_curve :
    let e := FeedSide.reset.entry
    let c := { e with points := #v[(20, 1000), (120, 750), (190, 300), (260, 0), (300, 0), (400, 0), (500, 0),
      (600, 0)] }
    ascending (e.points.toList.map (·.1)) = true ∧
      [200, 175, 30, 420].map (curveAt e) = [600, 700, 1000, 0] ∧ curveAt c 150 = 557 ∧
      augerFor 600 2750 1500 = 1000 ∧ augerFor 600 2300 1500 = 920 ∧ augerFor 557 2300 1500 = 854 := by
  decide +kernel

/-- The left side of the worked sequence of 7.4, before its first reading. -/
def levelling (st : LevelState) (n : Nat) (last base : Option Int) : State :=
  let e : LevelEntry := ⟨8, 5, 2, 30, 10, 25, 80, 600⟩
  let v := { SideVars.reset with mode := .grade, state := st, counter := n, lastValid := last, base := base }
  { running with level := { running.level with left := ⟨e, v⟩, motion := .forward } }

/-- A reading of slot 2 taken by the left side. -/
def reading (q : Quality) (s : State) (r : Int) : State := levelUpdate 2 r q s .left

theorem test_confidence_gained :
    let s := [-120, -118, -121, -119].foldl (reading .good) (levelling .acquire 0 none none)
    let v := (reading .good s (-117)).level.left.vars
    (s.level.left.vars.state, s.level.left.vars.counter) = (.acquire, 4) ∧
      (v.state, v.counter, v.base, v.lastValid) = (.active, 5, some (-117), some (-117)) := by decide +kernel

theorem test_confidence_lost :
    let s := reading .good (levelling .active 5 (some (-117)) (some (-117))) (-160)
    let t := [5000, 5000].foldl (reading .clamped) s
    (s.level.left.vars.state, s.level.left.vars.counter) = (.active, 4) ∧
      (t.level.left.vars.state, t.level.left.vars.counter) = (.hold, 2) ∧ isActive t .levelHold = true := by
  decide +kernel

/-- The worked sequence of 7.5: a stop at a truck. -/
theorem test_stop_at_a_truck :
    let s := levelMotion .stopped (levelling .active 8 (some (-117)) (some (-117)))
    let v := (levelStale 2 s .left).level.left.vars
    let t := levelMotion .forward (levelStale 2 s .left)
    (s.level.left.vars.state, s.level.left.vars.remembered) = (.frozen, some .active) ∧
      (v.state, v.remembered, v.counter) = (.frozen, some .hold, 0) ∧ t.level.left.vars.state = .hold ∧
      (levelMotion .forward s).level.left.vars.state = .active := by decide +kernel

/-- The left side of the worked sequence of 8.4 at 0 s. -/
def feeding : State :=
  let s := { running with feed := { running.feed with leftHalf := 2750, motion := .forward } }
  enterFeed .left .running (withFeed { FeedVars.reset with mode := .auto, held := some 200, fresh := true } s)

theorem test_feed_worked_sequence :
    let s1 := feedUpdate .left 55 (feedUpdate .left 120 feeding)
    let v0 := feeding.feed.left.vars
    let v1 := s1.feed.left.vars
    let v2 := (feedUpdate .left 180 (after (.starveTimerExpires .left) s1)).feed.left.vars
    (v0.state, v0.conveyor, v0.auger) = (.running, 600, 1000) ∧ feeding.voter.feedInput = 1000 ∧
      (v1.conveyor, v1.auger, v1.starve) = (990, 1000, some 20000) ∧ (v2.state, v2.conveyor) = (.running, 680) ∧
      (feedMotion .parked s1).feed.left.vars.state = .paused := by decide +kernel

theorem test_witness_starve_timer :
    let s := feedUpdate .left 55 feeding
    let t := after (.starveTimerExpires .left) s
    (feedVars s .left).state = .running ∧ (feedVars s .left).starve.isSome = true ∧
      (feedVars t .left).state = .starved ∧ (feedVars t .left).conveyor = 990 ∧
      isActive t .feedStarved = true := by decide +kernel

/-- The worked sequence of 9.2: a lost valve driver, to 130 ms. -/
theorem test_witness_submissions :
    let s1 := submit 0 147 (withTarget 0 (target idleTarget) running)
    let s2 := submit 0 147 (submit 0 82 s1)
    let s3 := submit 0 (-96) (after (.ackTimerExpires 0) s2)
    let v := fun s : State => s.disp.targets[0].vars
    ((v s1).outstanding, (v s1).ackTimer, (v s1).seqCounter) = (some ⟨147, 6, 1⟩, some 100, 7) ∧
      (v (submit 0 82 s1)).pending = some 82 ∧ (v s2).pending = none ∧
      ((v s3).outstanding, (v s3).pending, (v s3).resends) = (some ⟨147, 6, 2⟩, some (-96), 1) ∧
      submit 3 5 running = running := by decide +kernel

theorem test_faultstop_takes_neutral_values_only :
    let s := { withTarget 0 (target idleTarget) running with disp :=
      { (withTarget 0 (target idleTarget) running).disp with hubMode := .faultstop } }
    submit 0 147 s = s ∧ (submit 0 0 s).disp.targets[0].vars.outstanding = some ⟨0, 6, 1⟩ := by decide +kernel

/-- The worked sequence of 9.2 from 200 ms. -/
theorem test_witness_ack_timer :
    let x := { idleTarget with seqCounter := 7, outstanding := some ⟨147, 6, 2⟩, ackTimer := some 0, pending := some (-96) }
    let s := fun i : Fin 7 => withTarget i (target x) (levelling .active 5 (some 0) (some 0))
    let v := (after (.ackTimerExpires 0) (s 0)).disp.targets[0].vars
    let w := (after (.ackTimerExpires 3) (s 3)).disp.targets[3].vars
    let y := (after (.ackTimerExpires 3) (withTarget 3 (target { x with pending := none }) running)).disp.targets[3].vars
    (v.outstanding, v.pending, v.lost, v.losses) = (some ⟨-96, 7, 1⟩, some 0, true, 1) ∧
      (after (.ackTimerExpires 0) (s 0)).level.left.vars.state = .hold ∧
      (w.outstanding, w.pending, w.lost) = (some ⟨-96, 7, 1⟩, none, true) ∧ y.outstanding = none ∧
      isActive (after (.ackTimerExpires 3) (s 3)) .targetLost = true := by decide +kernel

theorem test_witness_answers :
    let x := { idleTarget with seqCounter := 8, outstanding := some ⟨-96, 7, 1⟩, ackTimer := some 10, pending := some 0, lost := true }
    let s := withTarget 0 (target x) running
    let f := fun seq code => (⟨.ack, false, seq, 0, 2, 10, 3, .bytes [code]⟩ : Frame)
    let t := after (.frameReceived .B true (wire (f 7 0))) s
    let u := after (.frameReceived .B true (wire (f 7 1))) s
    checkFrame true (wire (f 7 0)) = some (f 7 0) ∧ ackTarget s (f 7 0) = some 0 ∧
      (t.disp.targets[0].vars.outstanding, t.disp.targets[0].vars.lost) = (some ⟨0, 8, 1⟩, false) ∧
      u.disp.targets[0].vars.rejections = 1 ∧ (condEntry u.log .targetReject).count = 1 ∧
      (after (.frameReceived .B true (wire (f 6 0))) s).disp = s.disp := by decide +kernel

/-- Readings at the jump limit, and a STALE slot in ACQUIRE, HOLD and STANDBY (R106, R109). -/
theorem test_witness_readings :
    let s := levelling .active 6 (some 0) (some 0)
    let at_ := fun q r => (reading q s r).level.left.vars
    let stale := fun st => (levelStale 2 (levelling st 6 (some 0) (some 0)) .left).level.left.vars
    ((at_ .good 30).counter, (at_ .good 31).counter, (at_ .clamped 0).counter) = (7, 5, 5) ∧
      (at_ .good 30).lastSubmitted = some (valveCommand s.level.left.entry (-30)) ∧
      levelUpdate 3 0 .good s .left = s ∧
      ((stale .acquire).state, (stale .acquire).lastSubmitted) = (.hold, some 0) ∧
      ((stale .hold).counter, (stale .hold).lastValid) = (0, none) ∧ (stale .standby).state = .standby := by
  decide +kernel

/-- The engage level from HOLD, and the release level on return from FROZEN (R107, R108, R112). -/
theorem test_witness_confidence_ends :
    let hold := fun n => (reading .good (levelling .hold n none (some 40)) 40).level.left.vars
    let back := fun n r =>
      let s := levelling .frozen n (some 5) (some 0)
      let t := { s with level := { s.level with left := { s.level.left with
        vars := { s.level.left.vars with remembered := r } } } }
      (sideMotion .forward t .left).level.left.vars
    ((hold 3).state, (hold 4).state, (hold 4).base) = (.hold, .active, some 40) ∧
      ((back 2 (some .active)).state, (back 3 (some .active)).state) = (.hold, .active) ∧
      (back 3 (some .active)).lastValid = none ∧ (back 3 (some .acquire)).state = .acquire := by decide +kernel

/-- The feed side at its low mark, without its sensor, parked and started again (R129 to R131). -/
theorem test_witness_feed_levels :
    let low := feeding.feed.left.entry.lowMark
    let v := fun s : State => s.feed.left.vars
    let starved := after (.starveTimerExpires .left) (feedUpdate .left 55 feeding)
    let blind := feedStale .left feeding
    let parked := feedMotion .parked feeding
    let parkedBlind := feedMotion .parked blind
    ((v (feedUpdate .left (low - 1) starved)).state, (v (feedUpdate .left low starved)).state) =
        (.starved, .running) ∧
      ((v blind).state, (v blind).fresh, (v blind).held, (v blind).conveyor) =
        (.sensorless, false, some 200, 0) ∧
      (v (feedUpdate .left 200 blind)).state = .running ∧
      ((v (feedMotion .forward parked)).state, (v (feedMotion .forward parked)).conveyor) = (.running, 600) ∧
      (v (feedMotion .reverse parkedBlind)).state = .sensorless ∧
      (v (feedUpdate .left 100 parked)).held = some 100 ∧ (v (feedUpdate .left 100 parked)).state = .paused := by
  decide +kernel

/-- A lost valve driver with its side in ACTIVE, HOLD and FROZEN, with a pending value and none (R110, R139). -/
theorem test_witness_lost_valve :
    let o : TargetVars := { idleTarget with seqCounter := 7, outstanding := some ⟨147, 6, 2⟩ }
    let x := fun p => { o with ackTimer := some 0, pending := p }
    let t := fun st p => after (.ackTimerExpires 0)
      (withTarget 0 (target (x p)) (levelling st 5 (some 0) (some 0)))
    let y := fun st p => (t st p).disp.targets[0].vars
    let w := fun st => (t st none).level.left.vars
    StopSettled (levelling .active 5 (some 0) (some 0)) ∧
      ((y .active none).outstanding, (y .active none).pending) = (some ⟨0, 7, 1⟩, none) ∧
      ((y .active (some 0)).outstanding, (y .active (some 0)).pending) = (some ⟨0, 7, 1⟩, none) ∧
      ((y .active (some 5)).outstanding, (y .active (some 5)).pending) = (some ⟨5, 7, 1⟩, some 0) ∧
      ((y .hold (some 5)).outstanding, (y .hold (some 5)).pending) = (some ⟨5, 7, 1⟩, none) ∧
      (y .hold none).outstanding = none ∧ ((w .hold).state, (w .hold).counter) = (.hold, 0) ∧
      ((w .frozen).state, (w .frozen).remembered) = (.frozen, some .hold) ∧
      isActive (t .active none) .targetLost = true ∧ isActive (t .active none) .levelHold = true := by
  unfold StopSettled
  decide +kernel

/-- Each slot's update and STALE report reach its own consumer (2.1). -/
theorem test_slot_consumers :
    let e := fun n : Nat => (⟨true, 20, 7, 0, 1, false, 1, 1, 0, n, 1000⟩ : IntakeEntry)
    let t := fun n => applyEntry [200] (withEntry 7 (e n) running) 7
    let good := { feeding with intake := { feeding.intake with slots := .replicate 9 ⟨200, .good, 0, 1000, some 7⟩ } }
    let state := fun n => (after (.slotStalenessExpires n) good).feed.left.vars.state
    ((t 5).feed.left.vars.held, (t 5).feed.right.vars.held) = (some 200, none) ∧
      ((t 6).feed.left.vars.held, (t 6).feed.right.vars.held) = (none, some 200) ∧
      ((t 7).travel.heldLeft, (t 7).travel.heldRight) = (200, 0) ∧
      ((t 8).travel.heldLeft, (t 8).travel.heldRight) = (0, 200) ∧
      ((t 0).travel.baseline, (t 1).travel.motion) = (some 200, .forward) ∧
      [state 5, state 6, state 7, state 8] = [.sensorless, .running, .running, .running] := by decide +kernel

/-- COMMAND frames of a valve and of an auger, sent and sent again (R136, R138). -/
theorem test_command_frames :
    let s := fun i v => submit i v (withTarget i (target idleTarget) running)
    let sent := fun t : State => t.bridge.portB.sending.map (·.frame)
    let idle := fun t : State => { t with bridge := { t.bridge with portB := portUp } }
    sent (s 0 (-96)) = some ⟨.command, true, 6, 0, 10, 2, 3, .bytes [255, 160]⟩ ∧
      sent (s 3 300) = some ⟨.command, false, 6, 0, 10, 2, 3, .bytes [1, 44]⟩ ∧
      sent (after (.ackTimerExpires 3) (idle (s 3 300))) =
        some ⟨.command, false, 6, 0, 10, 2, 3, .bytes [1, 44]⟩ := by decide +kernel

/-- Answers that end nothing, and one that reaches a LOST target with nothing outstanding (R137). -/
theorem test_answers_that_end_nothing :
    let x := { idleTarget with outstanding := some ⟨-96, 7, 1⟩, ackTimer := some 10 }
    let s := withTarget 0 (target x) running
    let f := fun src chan seq l => (⟨.ack, false, seq, 0, 2, src, chan, .bytes l⟩ : Frame)
    let t := fun src chan seq l => (after (.frameReceived .B true (wire (f src chan seq l))) s).disp
    let lost := withTarget 0 (target { idleTarget with lost := true }) running
    t 11 3 7 [0] = s.disp ∧ t 10 4 7 [0] = s.disp ∧ t 10 3 6 [0] = s.disp ∧ t 10 3 7 [] = s.disp ∧
      t 10 3 7 [2] = s.disp ∧ t 10 3 7 [0, 9] ≠ s.disp ∧
      (after (.frameReceived .B true (wire (f 10 3 9 [7]))) lost).disp.targets[0].vars = idleTarget := by
  decide +kernel

/-! ### The mat map -/

/-- The cells of the worked case of 10.5. -/
def cells : Vector MatCell 64 :=
  let row : List (Nat × Nat) := [(3, 372), (3, 351), (3, 349), (0, 0), (3, 345), (3, 378), (2, 260), (3, 393),
    (3, 396), (3, 399), (3, 390), (3, 384), (3, 355), (3, 350), (3, 352), (1, 121)]
  tab fun i => if 24 ≤ i.val then (row[i.val - 24]?).elim ⟨0, 0⟩ (fun x => ⟨x.1, x.2⟩) else ⟨0, 0⟩

/-- The open row of the worked case of 10.5. -/
def row : OpenRow := ⟨30000, 50, cells, some (24, 39), true, 0⟩

theorem test_row_worked_case :
    let r := rowRecord State.reset.map 77 row
    (r.valid, r.cold, r.min, r.max, r.mean, r.runCount) = (15, 6, 115, 133, 123, 3) ∧
      r.runs = [(25, 2), (28, 1), (36, 3), (0, 0), (0, 0), (0, 0)] ∧ r.flags = 0 ∧
      (r.colLo, r.colHi, r.station, r.clock) = (24, 39, 30000, 77) := by decide +kernel

theorem test_row_close_counts :
    let n := fun z : Nat => zoneCounts 120 row (zoneEntryDefault z)
    [n 5, n 6, n 7, n 8, n 9] = [(0, 0), (3, 2), (4, 1), (4, 0), (4, 3)] := by decide +kernel

theorem test_row_flags_at_the_close :
    let m := State.reset.map
    let blank := { row with scanned := false, cells := .replicate 64 ⟨0, 0⟩ }
    let spread := { row with cells := (cells.set 24 ⟨1, 200⟩).set 10 ⟨1, 0⟩ }
    let striped := { row with cells := tab fun i => if i.val % 2 = 0 then ⟨1, 100⟩ else ⟨0, 0⟩ }
    (rowRecord m 0 blank).flags = 0x800#16 ∧ (rowRecord m 0 blank).mean = 255 ∧
      (rowRecord m 0 spread).flags.getLsbD 10 = true ∧ (rowRecord m 0 striped).runCount = 32 ∧
      (rowRecord m 0 striped).flags.getLsbD 12 = true := by decide +kernel

/-- The hub in RUN with a queue of `n` marks and a row open at 40150. -/
def paving (n : Nat) (g : Option Gap) : State :=
  { running with map := { running.map with
    queue := List.replicate n (.mark 0 0 0)
    gap := g
    row := some ⟨40150, 50, .replicate 64 ⟨0, 0⟩, none, false, 0⟩
    highWater := 40160 } }

/-- Steps 3 and 5 of the worked sequence of 10.6. -/
theorem test_gap_worked_sequence :
    let g : Gap := ⟨40050, 40150, 2, .queueFull, false, 9⟩
    let s := mapStation 40310 40310 (paving 32 (some g))
    s.map.gap = some ⟨40050, 40300, 5, .queueFull, false, 9⟩ ∧ s.map.queue.length = 32 ∧
      s.map.row.map (·.start) = some 40300 ∧
      (after (.mark 0 7) (paving 32 (some g))).map.gap = some g := by decide +kernel

/-- Step 7 of the worked sequence of 10.6. -/
theorem test_gap_closes_ahead_of_a_row :
    let g : Gap := ⟨40050, 40150, 2, .queueFull, false, 9⟩
    let s := mapStation 40200 40200 (paving 30 (some g))
    s.map.gap = none ∧ s.map.queue.length = 32 ∧ (s.map.queue.drop 30).take 1 = [.gap g] ∧
      (condEntry s.log .recordGap).count = 1 := by decide +kernel

theorem test_witness_assembly_window :
    let m := { running.map with
      scan := some 5
      segs := #v[none, some (List.replicate 16 123), none, none]
      window := some 0
      motion := .forward
      row := some { row with cells := .replicate 64 ⟨0, 0⟩, span := none, scanned := false } }
    let t := after .assemblyWindowExpires { running with map := m }
    let u := after .assemblyWindowExpires { running with map := { m with motion := .stopped } }
    t.map.scan = none ∧ t.map.lastApplied = some 5 ∧ (t.map.taken, t.map.notTaken) = (1, 0) ∧
      t.map.row.map (fun r => (r.cells[24], r.cells[23], r.span)) = some (⟨1, 123⟩, ⟨0, 0⟩, some (24, 39)) ∧
      (condEntry t.log .scanIncomplete).count = 1 ∧ (u.map.taken, u.map.notTaken) = (0, 1) := by decide +kernel

/-- A scan made whole by its fourth segment, and one displaced, taken into the open row (R145, R147). -/
theorem test_witness_scans_taken :
    let l := List.replicate 16 123
    let c : Instr := .frameReceived .A true (wire (frameTo .scan 21 30 0 l))
    let go := fun scan segs => (after c (withNode 21 .A { running with map := { running.map with
      entry := { running.map.entry with scanner := some 30 }
      scan := some scan
      segs := segs
      motion := .forward
      row := some { row with cells := .replicate 64 ⟨0, 0⟩, span := none, scanned := false } } })).map
    let shows := fun m : MatMap => m.row.map fun r => (r.cells[31], r.cells[32], r.scanned)
    let whole := go 5 #v[none, some l, some (List.replicate 16 251), some l]
    let shown := go 9 #v[none, some l, none, none]
    (whole.scan, whole.taken, shows whole) = (none, 1, some (⟨1, 123⟩, ⟨0, 0⟩, true)) ∧
      (shown.scan, shown.lastApplied, shows shown) = (some 5, some 9, some (⟨1, 123⟩, ⟨0, 0⟩, true)) := by
  decide +kernel

theorem test_scan_frame_starts_a_scan :
    let s := { running with map := { running.map with entry := { running.map.entry with scanner := some 30 } } }
    let c : Instr := .frameReceived .A true
      ([197, 63, 30, 0, 16] ++ List.replicate 16 123 ++ [37, 238])
    (after c s).map.scan = some 5 ∧ (after c s).map.window = some 100 ∧ (after c running).map.ignored = 1 := by
  decide +kernel

theorem test_row_slot_layout :
    let r := rowRecord State.reset.map 77 row
    (slotImage 258 (.row r)).take 37 = [0, 0, 0, 1, 2, 0, 0, 0, 77, 0, 0, 117, 48, 0, 50, 24, 39, 15, 6, 115, 133,
      123, 0, 0, 3, 25, 2, 28, 1, 36, 3, 0, 0, 0, 0, 0, 0] ∧
    ((slotImage 1 (.gap ⟨-1, 2, 3, .skipped, true, 9⟩)).drop 9).take 15 =
      [255, 255, 255, 255, 0, 0, 0, 2, 0, 0, 0, 3, 1, 1, 0] ∧
    ((slotImage 1 (.restart 9 5 .restarted)).take 15) = [2, 0, 0, 0, 1, 0, 0, 0, 9, 0, 0, 0, 5, 3, 0] := by decide +kernel

/-- Reports at a row's end and one before it, over one row and two, with 31 and 32 places taken. -/
theorem test_witness_rows_close :
    let g : Gap := ⟨40050, 40150, 2, .queueFull, false, 9⟩
    let t := fun n gap high => (mapStation high high (paving n gap)).map
    ((t 0 none 40199).queue.length, (t 0 none 40200).queue.length, (t 0 none 40249).queue.length) = (0, 1, 1) ∧
      ((t 0 none 40249).row.map (·.start), (t 0 none 40250).row.map (·.start)) = (some 40200, some 40250) ∧
      (t 0 none 40249).gap = none ∧ (t 0 none 40250).gap = some ⟨40200, 40250, 1, .skipped, false, 0⟩ ∧
      ((t 31 none 40200).queue.length, (t 31 none 40200).gap) = (32, none) ∧
      (t 32 none 40250).gap = some ⟨40150, 40250, 2, .queueFull, false, 0⟩ ∧
      ((t 30 (some g) 40250).queue.length, (t 30 (some g) 40250).gap) =
        (32, some ⟨40200, 40250, 1, .skipped, false, 0⟩) ∧
      ((t 31 (some g) 40250).queue.length, (t 31 (some g) 40250).gap) =
        (31, some { g with rows := 4, last := 40250 }) ∧
      (mapStation 40200 40200 base).map.row = none := by decide +kernel

theorem test_witness_run_starts :
    let g : Gap := ⟨40050, 40150, 2, .queueFull, false, 9⟩
    let t := fun n gap => (startRun (paving n gap)).map
    ((t 31 none).queue.length, (t 31 none).gap, (t 31 none).row.map (·.start)) = (32, none, some 40160) ∧
      (t 32 none).gap = some ⟨0, 0, 0, .queueFull, true, 0⟩ ∧
      ((t 30 (some g)).queue.drop 30, (t 30 (some g)).gap) = ([.gap g, .restart 0 0 .restarted], none) ∧
      ((t 31 (some g)).queue.length, (t 31 (some g)).gap) = (31, some { g with restart := true }) := by
  decide +kernel

/-- A cell takes a byte of 250 and not one of 251 (R147). -/
theorem test_readings_of_250_and_251 :
    takeReading 250 ⟨1, 5⟩ = ⟨2, 255⟩ ∧ takeReading 251 ⟨1, 5⟩ = ⟨1, 5⟩ ∧ takeReading 255 ⟨1, 5⟩ = ⟨1, 5⟩ ∧
      takeReading 9 ⟨65534, 5⟩ = ⟨65535, 14⟩ ∧ takeReading 9 ⟨65535, 5⟩ = ⟨65535, 5⟩ := by decide +kernel

/-- A SCAN segment that begins a scan, joins one, ends one, displaces one, and one that is ignored (R145). -/
theorem test_witness_scan_segments :
    let l := List.replicate 16 123
    let f := fun chan : Nat => frameTo .scan 21 30 chan l
    let s := fun scan segs => withNode 21 .A { running with map := { running.map with
      entry := { running.map.entry with scanner := some 30 }
      scan := scan
      segs := segs
      lastApplied := some 4 } }
    let go := fun chan scan segs => (after (.frameReceived .A true (wire (f chan))) (s scan segs)).map
    let three : Vector (Option (List Byte)) 4 := #v[some l, some l, some l, none]
    checkFrame true (wire (f 3)) = some (f 3) ∧
      ((go 0 none (.replicate 4 none)).scan, (go 0 none (.replicate 4 none)).window) = (some 5, some 100) ∧
      (go 4 none (.replicate 4 none)).ignored = 1 ∧
      (go 1 (some 5) #v[some l, none, none, none]).segs = #v[some l, some l, none, none] ∧
      ((go 3 (some 5) three).scan, (go 3 (some 5) three).lastApplied, (go 3 (some 5) three).notTaken) =
        (none, some 5, 1) ∧
      ((go 3 (some 9) three).scan, (go 3 (some 9) three).lastApplied, (go 3 (some 9) three).segs) =
        (some 5, some 9, #v[none, none, none, some l]) := by decide +kernel

/-- The row-close report comes before the new row: a boost that it takes back ends HEAT_SHED, and the row opens
without its flag (R150). -/
theorem test_report_before_the_new_row :
    let z := zone { zoneEntryDefault 8 with rating := 2000 } .regulate 1400
    let s := heated { z with vars := { z.vars with boost := 10 } }
    let s := { s with
      power := { s.power with entry := { s.power.entry with nominal := 500 } }
      map := { s.map with motion := .forward, row := some row } }
    let s := reviewZone 8 s
    let t := mapStation 30050 30050 s
    (isActive s .heatShed, s.map.standing.getLsbD 3, s.heat.zones[8].vars.demand) = (true, true, 80) ∧
      (isActive t .heatShed, t.heat.zones[8].vars.boost, t.heat.zones[8].vars.demand) = (false, 0, 60) ∧
      t.map.row.map (fun r => (r.start, r.flags)) = some (30050, 0) := by decide +kernel

/-! ### The archive -/

/-- An archive in force over sectors 0 to 3 of the flash, with its directory, write position and next number. -/
def archive (dir : List (Option Nat)) (w : WritePos) (oldest newest : Option Nat) (next : Nat) : Archive :=
  { State.reset.archive with
    stored := ⟨0, 4, 512, .wrap, false⟩
    first := 0
    count := 4
    state := .normal
    sectors := dir.map fun x => ⟨x, x.isNone⟩
    oldest := oldest
    newest := newest
    nextNumber := next
    write := w }

/-- The archive of the worked sequence of 11.8 at its start. -/
def writing : Archive :=
  archive [some 1000, some 1064, some 1128, none] (.at 2 62) (some 1000) (some 1189) 1190

/-- The hub in RUN with an archive, its record queue of `n` marks. -/
def recording (a : Archive) (n : Nat) : State :=
  { running with
    archive := a
    map := { running.map with queue := List.replicate n (.mark 9 10 11) } }

/-- The worked sequence of 11.8 to its page program. -/
theorem test_witness_page_buffer :
    let s1 := after .recordTaken (recording writing 2)
    let s2 := after .recordTaken s1
    let s3 := after .programIssued s2
    let e := after .programIssued { s2 with archive := { s2.archive with erase := .erasing 0 1 } }
    (s1.archive.nextNumber, s1.archive.flush, s1.archive.programDue) = (1191, some 2000, false) ∧
      (s2.archive.nextNumber, s2.archive.programDue, s2.map.queue) = (1192, true, []) ∧
      (s3.archive.program, s3.archive.flush, s3.archive.programDue) = (some 10, none, false) ∧
      (after .flushTimerExpires s1).archive.programDue = true ∧ e.archive.erase = .suspended 0 2 := by
  decide +kernel

/-- The rest of the worked sequence of 11.8: the program's end, the erase of sector 0, RANGE and the last page. -/
theorem test_writing_across_a_sector_boundary :
    let s := { (recording writing 0) with archive := { writing with
      buffer := [(1190, .mark 9 10 11), (1191, .mark 9 10 12)]
      nextNumber := 1192
      program := some 5 } }
    let s1 := after .programComplete s
    let s2 := after .eraseIssued s1
    let s3 := after .eraseComplete s2
    (s1.archive.write, s1.archive.newest, s1.archive.eraseDue) = (.at 3 0, some 1191, some 0) ∧
      readPlace s1.flash 190 = slotImage 1190 (.mark 9 10 11) ∧
      (s2.archive.erase, s2.archive.oldest) = (.erasing 0 0, some 1064) ∧ s2.archive.eraseTimer = some 2000 ∧
      (s3.archive.erase, s3.archive.write) = (.idle, .at 3 0) ∧
      s3.archive.sectors[0]? = some ⟨none, true⟩ := by
  decide +kernel

theorem test_witness_failed_program :
    let s := fun n => { (recording writing 0) with archive := { writing with
      buffer := [(1190, .mark 9 10 11)]
      failures := n
      program := some 0 } }
    let t := after .programTimerExpires (s 0)
    let u := after .programTimerExpires (s 2)
    (t.archive.write, t.archive.failures, t.archive.buffer.length) = (.at 3 0, 1, 1) ∧
      (u.archive.state, u.archive.buffer, u.archive.lost) = (.failed, [], 1) ∧
      isActive u .archiveFail = true := by decide +kernel

/-- The records of a failed program fall due with their new page: at once in the next page or a ready sector, and
where the position waits, with the entry of the sector (R163, R164, log entry 89). -/
theorem test_failed_program_falls_due :
    let s := fun (w : Nat) (ready : Bool) => { (recording writing 0) with archive := { writing with
      write := .at 2 w
      sectors := writing.sectors.set 3 ⟨none, ready⟩
      buffer := [(1190, .mark 9 10 11)]
      program := some 0 } }
    let t := fun w ready => after .programTimerExpires (s w ready)
    let u := after .eraseComplete { t 62 false with archive := { (t 62 false).archive with erase := .erasing 3 0 } }
    ((t 40 true).archive.write, (t 40 true).archive.programDue) = (.at 2 44, true) ∧
      ((t 62 true).archive.write, (t 62 true).archive.programDue) = (.at 3 0, true) ∧
      ((t 62 false).archive.write, (t 62 false).archive.programDue) = (.waiting 3, false) ∧
      (u.archive.write, u.archive.programDue, u.archive.buffer.length) = (.at 3 0, true, 1) := by decide +kernel

/-- A suspended erase goes on at a program's end, unless a fetch has begun to read (R162, R163, R165). -/
theorem test_witness_erase_goes_on_after_a_program :
    let s := fun begun => { (recording writing 0) with
      mgmt := { running.mgmt with request := some ⟨17, 3, 1, .fetch ⟨1190, 1192, false, begun, false⟩⟩ }
      archive := { writing with
        buffer := [(1190, .mark 9 10 11)]
        erase := .suspended 0 2
        program := some 5 } }
    let e := fun c begun => (after c (s begun)).archive.erase
    (e .programComplete false, e .programComplete true) = (.erasing 0 2, .suspended 0 2) ∧
      (e .programTimerExpires false, e .programTimerExpires true) = (.erasing 0 2, .suspended 0 2) := by
  decide +kernel

/-- The witness of the programs' statement under HALT, whose next sector is held. -/
theorem test_halt_fills_the_archive :
    let s := { (recording writing 0) with archive := { (archive [some 1064, some 1128, some 1, some 65]
      (.at 2 62) (some 1) (some 1189) 1190) with
        stored := ⟨0, 4, 512, .halt, false⟩
        held := some 3
        buffer := [(1190, .mark 9 10 11), (1191, .mark 9 10 12)]
        program := some 5 } }
    let t := after .programComplete s
    Memory.wf s.flash = true ∧ (t.archive.state, t.archive.write) = (.full, .waiting 3) ∧
      isActive t .archiveFull = true := by decide +kernel

theorem test_witness_erase_ends :
    let s := fun n => { (recording writing 0) with archive := { writing with
      erase := .erasing 0 0
      eraseTimer := some 0
      write := .waiting 0
      failures := n } }
    let t := after .eraseTimerExpires (s 1)
    let u := after .eraseTimerExpires (s 2)
    (after .eraseComplete (s 1)).archive.write = .at 0 0 ∧ (after .eraseComplete (s 1)).archive.failures = 0 ∧
      (t.archive.eraseDue, t.archive.erase, t.archive.failures) = (some 0, .idle, 2) ∧
      (u.archive.state, u.archive.erase) = (.failed, .idle) := by decide +kernel

/-- The hub in CONFIG, scanning sectors 0 and 1 of a flash. -/
def scanning (f : Flash) : State :=
  { base with
    archive := { archive [none, none] .unplaced none none 1 with
      stored := ⟨0, 2, 512, .wrap, false⟩
      count := 2
      state := .scanning }
    flash := f }

/-- What the scan of the worked case of 11.6 finds. -/
def foundAfterPowerLoss : List (List Found) :=
  [List.replicate 9 .dirty ++ List.replicate 55 .erased, (List.range 64).map fun i => .record (1064 + i),
    (List.range 64).map fun i => .record (1128 + i), [.record 1192, .dirty] ++ List.replicate 62 .erased]

/-- The worked case of 11.6, and the same without the dirty slot. -/
theorem test_scan_worked_case :
    let l := foundAfterPowerLoss
    placeWrite 4 l (some 1192) = .waiting 0 ∧ (l.map fun x => (foundNumbers x).min?) =
      [none, some 1064, some 1128, some 1192] ∧ l.countP (fun x => x.contains .dirty) = 2 ∧
      placeWrite 4 (l.set 3 (.record 1192 :: List.replicate 63 .erased)) (some 1192) = .at 3 1 := by decide +kernel

theorem test_witness_archive_scan_of_dirty_slot :
    let a := (after .archiveScanEnds (scanning (programPlace State.reset.flash 0 [1]))).archive
    (a.state, a.nextNumber, a.write) = (.normal, 1, .waiting 0) ∧
      (a.eraseDue, a.dirty, a.oldest) = (some 0, 1, none) := by decide +kernel

theorem test_witness_archive_scan_of_blank_flash :
    let a := (after .archiveScanEnds (scanning State.reset.flash)).archive
    (a.write, a.nextNumber, a.oldest) = (.at 0 0, 1, none) := by decide +kernel

/-- FETCH 1060 of the worked sequence of 11.8 is RANGE; 1192 in slot 0 of sector 3 is sent. -/
theorem test_witness_fetch :
    let a := archive [none, some 1064, some 1128, some 1192] (.at 3 1) (some 1064) (some 1192) 1193
    let s := { (recording a 0) with flash := programPlace State.reset.flash 192 (slotImage 1192 (.mark 9 10 11)) }
    let t := after (.fetch 3 1192 9) s
    let t1 := after .fetchRecordRead t
    let t2 := after .fetchRecordRead t1
    let busy := after (.fetch 3 1192 1) { s with archive := { a with state := .scanning } }
    Ready s ∧ (after (.fetch 3 1060 2) s).mgmt.request = none ∧
      t.mgmt.request = some ⟨17, 3, s.bridge.consoleNode, .fetch ⟨1192, 1192, true, false, false⟩⟩ ∧
      t1.mgmt.request.map (·.kind) = some (.fetch ⟨1193, 1192, true, true, false⟩) ∧
      findRecord t 1192 = some (wireForm 1192 (.mark 9 10 11)) ∧ t2.mgmt.request = none ∧
      busy.mgmt.request = none := by
  unfold Ready
  decide +kernel

/-- A fetch's reads: the first suspends the erase, a number that no slot carries is passed over, the next waits for
the last reply's place, and the final reply resumes the erase and, admitted, ends the request (R165, R169, R174). -/
theorem test_witness_fetch_goes_on :
    let a := archive [none, some 1064, some 1128, some 1192] (.at 3 1) (some 1064) (some 1192) 1193
    let full := { portUp with sending := some (queued true none), normalQ := List.replicate 16 (queued true none) }
    let s := fun (r : PortRec) (f : FetchState) => { (linked r portUp (recording { a with erase := .erasing 0 1 } 0)) with
      flash := programPlace State.reset.flash 192 (slotImage 1192 (.mark 9 10 11))
      mgmt := { running.mgmt with request := some ⟨17, 3, 1, .fetch f⟩ } }
    let go := fun r f => after .fetchRecordRead (s r f)
    let kind := fun t : State => t.mgmt.request.map (·.kind)
    let past := go portUp ⟨1191, 1192, false, false, false⟩
    let held := go full ⟨1192, 1192, false, true, false⟩
    let last := after .fetchRecordRead { (s full ⟨1193, 1192, false, true, false⟩) with
      archive := { a with erase := .suspended 0 2 } }
    let left := after (.frameSendEnds .A) last
    kind past = some (.fetch ⟨1192, 1192, false, true, false⟩) ∧ past.archive.erase = .suspended 0 2 ∧
      (past.bridge = (s portUp ⟨1191, 1192, false, false, false⟩).bridge) ∧
      kind held = some (.fetch ⟨1193, 1192, false, true, false⟩) ∧ held.mgmt.waitingReply.isSome = true ∧
      after .fetchRecordRead held = held ∧
      kind last = some (.fetch ⟨1193, 1192, false, true, true⟩) ∧ last.archive.erase = .erasing 0 2 ∧
      (after (.waitingFrameAdmitted .A) left).mgmt.request = none := by
  decide +kernel

theorem test_witness_mark :
    let s := paving 30 none
    let g : Gap := ⟨40050, 40150, 2, .queueFull, false, 9⟩
    Ready s ∧ (after (.mark 0 7) s).map.queue.drop 30 = [.mark 0 s.map.station 7] ∧
      (after (.mark 0 7) (paving 30 (some g))).map.queue.drop 30 = [.gap g, .mark 0 s.map.station 7] ∧
      (after (.mark 0 7) (paving 32 none)).map.queue.length = 32 ∧
      (after (.mark 0 7) base).map.queue = base.map.queue := by
  unfold Ready
  decide +kernel

theorem test_witness_format :
    let s := { base with archive := { writing with state := .failed } }
    let t := after (.format 0) s
    Ready s ∧ s.mgmt.mode = .config ∧ (t.archive.state, t.archive.eraseDue) = (.formatting, some 0) ∧
      t.archive.sectors = List.replicate 4 ⟨none, false⟩ ∧
      (after (.format 0) base).archive.state = .absent ∧
      (after (.format 0) { base with archive := { writing with state := .scanning } }).archive.state = .scanning := by
  unfold Ready
  decide +kernel

/-- A FORMAT beside an erase left in the flash, by FAILED, running or suspended: it waits with a fresh timer
(R170). -/
theorem test_witness_format_beside_an_erase :
    let f := fun e left => (after (.format 0) { base with archive := { writing with
      state := .failed
      erase := e
      eraseTimer := some 9
      eraseDue := some 3
      left := left } }).archive
    [f .idle (some 9), f (.erasing 2 1) none, f (.suspended 2 1) none].map (fun a =>
        (a.format, a.left, a.erase, a.eraseDue, a.eraseTimer)) =
      [(.waiting, some 9, .idle, none, some 2000), (.waiting, some 2, .idle, none, some 2000),
        (.waiting, some 2, .idle, none, some 2000)] ∧
      ((f .idle none).format, (f .idle none).eraseDue, (f .idle none).eraseTimer) = (.erasing, some 0, none) := by
  decide +kernel

/-- A format that waits for the erase left in the flash, its sectors and its end (R170). -/
theorem test_witness_format_erases :
    let s := fun fmt e left => recording { writing with
      state := .formatting
      format := fmt
      erase := e
      eraseTimer := some 9
      left := left } 0
    let a := fun fmt e left => (after .eraseComplete (s fmt e left)).archive
    let w := a .waiting .idle (some 7)
    let late := (after .eraseTimerExpires (s .waiting .idle (some 7))).archive
    ((w.format, w.eraseDue, w.left) = (.erasing, some 0, none)) ∧
      (late.format, late.eraseDue, late.left, late.failures) = (.erasing, some 0, none, writing.failures + 1) ∧
      ((a .erasing (.erasing 2 0) none).eraseDue, (a .erasing (.erasing 2 0) none).state) = (some 3, .formatting) ∧
      ((a .erasing (.erasing 3 0) none).state, (a .erasing (.erasing 3 0) none).write) = (.normal, .at 0 0) ∧
      ((a .erasing (.erasing 3 0) none).nextNumber, (a .erasing (.erasing 3 0) none).format) = (1, .none) := by
  decide +kernel

/-- The cells of a valid slot at a place: number 4294967043, every byte but three 255. -/
def slotCells (place : Nat) : List Host.Cell := [(64 * place, 0), (64 * place + 4, 3), (64 * place + 37, 0)]

/-- A scan whose newest record is in slot 62, and one under HALT whose newest is in slot 63. -/
theorem test_witness_scan_with_a_record :
    let s := scanning ⟨slotCells 62, []⟩
    let t := scanning ⟨slotCells 63, []⟩
    let a := (after .archiveScanEnds s).archive
    let b := (after .archiveScanEnds { t with archive := { t.archive with
      stored := ⟨0, 1, 512, .halt, false⟩
      count := 1 } }).archive
    (a.write, a.eraseDue, a.nextNumber) = (.at 0 63, some 1, 4294967044) ∧
      (b.write, b.state, b.held) = (.waiting 0, .full, some 0) := by decide +kernel

/-- Placements with the newest record in slot 63, before a dirty slot, and in the last sector. -/
theorem test_scan_placements :
    let f := fun (w : Nat) (x : List Found) =>
      List.replicate w .erased ++ .record 9 :: x ++ List.replicate (63 - w - x.length) .erased
    let blank := List.replicate 64 Found.erased
    placeWrite 2 [f 63 [], blank] (some 9) = .waiting 1 ∧
      placeWrite 2 [f 3 [.dirty], blank] (some 9) = .waiting 1 ∧
      placeWrite 2 [blank, f 63 []] (some 9) = .waiting 0 ∧
      placeWrite 2 [f 62 [], blank] (some 9) = .at 0 63 := by
  decide +kernel

/-- Record notices, one of them refused, and the directory entry of an EMPTY sector (R162, R171). -/
theorem test_record_notices :
    let rs : List (Nat × Record) := [(1190, .mark 9 10 11), (1191, .mark 9 10 12)]
    let a := { (archive [some 1000, some 1064, some 1128, none] (.at 3 0) (some 1000) (some 1189) 1192) with
      stored := ⟨0, 4, 512, .wrap, true⟩
      buffer := rs
      program := some 5 }
    let s := { (linked portUp portUp (recording a 0)) with log := { running.log with noticeCount := 15 } }
    let t := after .programComplete s
    let full := { portUp with sending := some (queued true none), normalQ := List.replicate 15 (queued true none) }
    let u := after .programComplete (linked full portUp s)
    let n := fun seq r => (⟨.notice, false, seq, 0, 1, 2, 200, .bytes (wireForm r.1 r.2)⟩ : Frame)
    t.bridge.portA.sending.map (·.frame) = some (n 15 (1190, .mark 9 10 11)) ∧
      t.bridge.portA.normalQ.map (·.frame) = [n 0 (1191, .mark 9 10 12)] ∧
      (t.log.noticeCount, t.archive.skipped, u.log.noticeCount, u.archive.skipped) = (1, 0, 1, 1) ∧
      t.archive.sectors[3]?.map (·.low) = some (some 1190) ∧ t.archive.write = .at 3 2 := by decide +kernel

/-- The write position at the third failure, and at a sector whose erase is still to begin (R163, R164). -/
theorem test_position_at_a_sector_end :
    let s := fun (n : Nat) (due : Option Nat) (p : Policy) => { (recording writing 0) with archive := { writing with
      buffer := [(1190, .mark 9 10 11)]
      failures := n
      eraseDue := due
      stored := ⟨0, 4, 512, p, false⟩
      held := if p = .halt then some 3 else none
      program := some 0 } }
    let t := fun n due p => (after .programTimerExpires (s n due p)).archive
    ((t 2 none .wrap).write, (t 2 none .wrap).state, (t 2 none .wrap).lost) = (.at 3 0, .failed, 1) ∧
      ((t 2 none .halt).write, (t 2 none .halt).state, (t 2 none .halt).lost) = (.waiting 3, .failed, 1) ∧
      ((t 0 (some 3) .wrap).write, (t 0 (some 3) .wrap).eraseDue) = (.waiting 3, some 3) ∧
      ((t 0 none .wrap).write, (t 0 none .wrap).eraseDue) = (.at 3 0, some 0) ∧
      (t 0 none .wrap).buffer.length = 1 := by decide +kernel

/-- A fetch that ends with PARTIAL, beside a due program, with 24 records queued, and behind an erase that was
suspended four times (R169). -/
theorem test_partial_fetches :
    let a := archive [none, some 1064, some 1128, some 1192] (.at 3 1) (some 1064) (some 1192) 1193
    let s := fun (a : Archive) n => { (linked portUp portUp (recording a n)) with mgmt := { running.mgmt with
      request := some ⟨17, 3, 1, .fetch ⟨1190, 1192, false, false, false⟩⟩ } }
    let last := fun t : State => t.bridge.portA.sending.map (·.frame.body)
    let go := fun a n => last (after .fetchRecordRead (s a n))
    let stuck := { a with erase := .erasing 0 4 }
    go { a with programDue := true } 0 = some (.reply .part (.next 1190)) ∧
      go a 24 = some (.reply .part (.next 1190)) ∧ go stuck 24 = some (.reply .part (.next 1190)) ∧
      go stuck 23 = none := by decide +kernel

/-! ### Requests -/

/-- The code of the last reply that waits or is being sent at side A, the console's. -/
def answer (s : State) : Option ReplyCode :=
  ((s.bridge.portA.sending.toList ++ s.bridge.portA.normalQ).filterMap fun g =>
    match g.frame.body with
    | .reply rc _ => some rc
    | .bytes _ => none
    | .condition _ _ _ _ _ => none).getLast?

theorem test_witness_station_and_clock :
    let t := after (.setStation 0 (BitVec.ofInt 32 (-500))) base
    Ready base ∧ (t.travel.station, t.travel.highWater, t.map.station, t.map.highWater) = (-500, -500, -500, -500) ∧
      (after (.setStation 0 5) running).travel.station = running.travel.station ∧
      (after (.setClock 0 77) running).mgmt.jobClock = 77 ∧
      (after .jobClockAdvance (after (.setClock 0 0xFFFFFFFF#32) running)).mgmt.jobClock = 0 ∧
      (after (.jobKeyChange true) running).jobKey = true := by
  unfold Ready
  decide +kernel

theorem test_witness_requests :
    let busy := { base with mgmt := { base.mgmt with request := some ⟨17, 1, base.bridge.consoleNode, .plain⟩ } }
    Ready base ∧ answer (after (.status 0 0) base) = some .ok ∧ answer (after (.status 0 7) base) = some .badValue ∧
      answer (after (.readEntry 0 17 0) base) = some .badTable ∧
      answer (after (.readEntry 0 5 1) base) = some .badIndex ∧
      answer (after (.readEntry 0 16 24) base) = some .ok ∧ answer (after (.readSlot 0 8) base) = some .ok ∧
      answer (after (.readZone 0 16) base) = some .badValue ∧ answer (after (.readLine 0 19) base) = some .ok ∧
      answer (after (.readTarget 0 7) base) = some .badValue ∧
      answer (after (.unknownRequest 0 200) base) = some .badValue ∧
      requestOf (.run 3) = some (11, 3) ∧ answer (after (.run 3) busy) = some .busy ∧
      (after (.run 3) busy).mgmt.lastBusy = 11 := by
  unfold Ready
  decide +kernel

/-- The request code last refused BUSY follows a BUSY of a request's own rule, and no other answer (R174). -/
theorem test_last_refused_busy :
    let busy := fun c s => (answer (after c s), (after c s).mgmt.lastBusy)
    let works := fun x => { base with archive := { writing with state := x } }
    busy (.run 0) (works .formatting) = (some .busy, 11) ∧ busy (.mark 0 7) (paving 32 none) = (some .busy, 16) ∧
      busy (.fetch 0 1 1) (works .scanning) = (some .busy, 17) ∧ busy (.format 0) (works .scanning) = (some .busy, 18) ∧
      busy (.status 0 0) { base with mgmt := { base.mgmt with lastBusy := 16 } } = (some .ok, 16) := by decide +kernel

theorem test_witness_config_writes :
    let node := after (.writeNodeEntry 0 33 ⟨some .B, [65, 66]⟩) base
    let pair := after (.writeOwnConsoleNode 0 5 6) base
    let filter := after (.writeFilterEntry 0 23 ⟨true, some .command, none, some 10, 2, 9, some .block⟩) base
    let sensor := after (.writeSensorEntry 0 19 ⟨499, 385, 8000, 30000, 50⟩) base
    Ready base ∧ node.bridge.nodes[33] = ⟨.B, [65, 66]⟩ ∧ node.bridge.nodes[32] = base.bridge.nodes[32] ∧
      answer node = some .ok ∧ (pair.bridge.ownNode, pair.bridge.consoleNode) = (5, 6) ∧
      answer (after (.writeOwnConsoleNode 0 5 5) base) = some .badValue ∧
      answer (after (.writeOwnConsoleNode 0 5 6) running) = some .wrongMode ∧
      filter.bridge.filters[23].action = .block ∧ answer filter = some .ok ∧ answer sensor = some .clamped ∧
      sensor.rmu.lines[18].entry.r0 = 500 ∧
      answer (after (.writeSensorEntry 0 20 ⟨500, 385, 8000, 30000, 50⟩) base) = some .badIndex ∧
      answer (after (.writeSensorEntry 0 19 ⟨500, 385, 8000, 8000, 50⟩) base) = some .badOrder := by
  unfold Ready
  decide +kernel

/-- The empty list removes the held reference; another keeps it (R44, R45). -/
theorem test_sweep_list_and_the_held_reference :
    let t := fun l => (after (.writeSweepList 0 0 l) { base with
      rmu := { base.rmu with heldRef := some 9, refAge := 3 } }).rmu
    ((t []).heldRef, (t []).refAge, (t []).counting) = (none, 0, none) ∧
      ((t [7, 3]).heldRef, (t [7, 3]).refAge, (t [7, 3]).counting.isSome) = (some 9, 3, true) := by decide +kernel

theorem test_witness_measurement_and_travel_writes :
    let mode := fun m => after (.writeReferenceEntry 0 ⟨some m, 1, 4096, 10000, 100, 65000⟩)
      { base with rmu := { base.rmu with heldRef := some 9 } }
    let sweep := after (.writeSweepList 0 0 [7, 3]) base
    let travel := after (.writeTravelParameters 0 0 ⟨20, 60, 3001⟩) base
    let intake := after (.writeIntakeEntry 0 4 gradeEntry) base
    (mode .period).rmu.heldRef = none ∧ (mode .period).rmu.ref.mode = .period ∧
      (sweep.rmu.sweepList, sweep.rmu.counting.map (·.line)) = ([7, 3], some 0) ∧
      (after (.writeSweepList 0 0 []) base).rmu.counting = none ∧
      answer (after (.writeSweepList 0 0 [7, 7]) base) = some .badValue ∧
      (travel.travel.params.baseWidth, travel.travel.leftHalf) = (3000, 1500) ∧ answer travel = some .clamped ∧
      intake.intake.entries[4] = ⟨gradeEntry, 0⟩ := by decide +kernel

theorem test_witness_target_writes :
    let row : TargetRow := ⟨true, 10, 3, 0, 100⟩
    let s := withTarget 2 (target { idleTarget with outstanding := some ⟨5, 5, 1⟩, lost := true }) base
    let t := after (.writeTargetRow 0 2 { row with chan := 4 }) s
    t.disp.targets[2].row.chan = 4 ∧ t.disp.targets[2].vars = { idleTarget with lost := false } ∧
      answer (after (.writeTargetRow 0 3 row) s) = some .badValue := by decide +kernel

theorem test_witness_run_writes :
    let zone := after (.writeZoneEntry 0 8 { zoneEntryDefault 8 with setpoint := 1950 }) running
    let budget := after (.writeBudget 0 0 ⟨15000, 60, 0, 200, 5, 2⟩) running
    let level := after (.writeLevellingEntry 0 1 ⟨20, 10, 4, 100, 10, 25, 80, 600⟩) running
    let entry := after (.writeMapEntry 0 0 ⟨none, 50, 121, 25⟩) running
    let store := after (.writeArchiveEntry 0 0 ⟨2, 4, 512, some .halt, true⟩) base
    Ready running ∧ zone.heat.zones[8].entry.setpoint = 1800 ∧ answer zone = some .clamped ∧
      answer (after (.writeZoneEntry 0 8 { zoneEntryDefault 8 with cls := 1 }) running) = some .wrongMode ∧
      budget.power.entry.nominal = 15000 ∧
      answer (after (.writeBudget 0 0 ⟨15000, 60, 0, 200, 5, 4⟩) running) = some .wrongMode ∧
      answer level = some .ok ∧ entry.map.entry = ⟨none, 50, 121, 25⟩ ∧
      store.archive.stored = ⟨2, 4, 512, .halt, true⟩ ∧ store.archive.count = 0 ∧
      answer (after (.writeArchiveEntry 0 0 ⟨0, 4, 512, some .wrap, true⟩) running) = some .wrongMode := by
  unfold Ready
  decide +kernel

theorem test_witness_vote_and_profile_writes :
    let votes := after (.writeVoteTable 0 3 (.floorDelay 4 5)) base
    let ts : Vector Nat 7 := #v[1, 2, 3, 4, 5, 6, 7]
    let point := after (.writeProfileEntry 0 9 ⟨true, 500, 10, 20, 30⟩) running
    let locked := { running with level := { running.level with protection := ⟨.first, 3, false, .frozen⟩ } }
    (votes.voter.floor, votes.voter.requested) = (4, 4) ∧
      (after (.writeVoteTable 0 1 (.thresholds ts)) running).voter.feed = ts ∧
      answer (after (.writeVoteTable 0 1 (.thresholds (ts.set 6 5))) running) = some .badOrder ∧
      point.level.profile[9] = ⟨true, 500, 10, 20, 30⟩ ∧
      answer (after (.writeProfileEntry 0 0 ⟨true, 500, 10, 20, 30⟩) locked) = some .locked ∧
      answer (after (.writeProtectionEntry 0 0 ⟨some .last, 0, true, some .opened⟩) locked) = some .locked ∧
      (after (.writeProtectionEntry 0 0 ⟨some .last, 3, true, some .key⟩) running).level.protection =
        ⟨.last, 3, true, .key⟩ := by decide +kernel

theorem test_witness_severity_writes :
    let w := fun x => Instr.writeConditionSeverity 0 3 x
    let s := { running with log := { running.log with
      entries := running.log.entries.set 3 { CondEntry.reset .alert with active := true } } }
    let t := after (w (some .stop)) s
    answer (after (w none) running) = some .badValue ∧ (after (w (some .stop)) running).mgmt.mode = .run ∧
      t.log.entries[3].severity = .stop ∧ t.mgmt.mode = .faultstop := by decide +kernel

theorem test_witness_set_modes :
    let warm := after (.setModeHeat 0 (some true)) running
    let grade := after (.setModeLevel 0 .left (some .grade)) running
    let slope := after (.setModeLevel 0 .right (some .slope)) base
    let auto := after (.setModeFeed 0 .left (some .auto)) running
    Ready running ∧ warm.heat.master = true ∧ (after (.setModeHeat 0 (some false)) warm).heat.master = false ∧
      answer (after (.setModeHeat 0 none) running) = some .badValue ∧
      (grade.level.left.vars.state, grade.level.left.vars.remembered) = (.frozen, some .acquire) ∧
      slope.level.right.vars.mode = .slope ∧
      answer (after (.setModeLevel 0 .left (some .slope)) slope) = some .badValue ∧
      auto.feed.left.vars.mode = .auto := by
  unfold Ready
  decide +kernel

/-- The six checks of the validation, and the modes. -/
theorem test_witness_hub_modes :
    let bad := { base with power := { base.power with entry := { base.power.entry with nominal := 0 } } }
    let stopping := { base with
      log := { base.log with
        entries := base.log.entries.set 2 { CondEntry.reset .stop with active := true } }
      bridge := { base.bridge with portA := portDown } }
    validateRun base = none ∧ running.mgmt.mode = .run ∧ answer running = some .ok ∧
      running.map.row = some ⟨0, 50, .replicate 64 ⟨0, 0⟩, none, false, 1⟩ ∧ validateRun bad = some (5, 0) ∧
      answer (after (.run 0) bad) = some .badConfig ∧ validateRun stopping = none ∧
      (after (.run 0) stopping).mgmt.mode = .faultstop ∧ (after (.stop 0) running).mgmt.mode = .config ∧
      answer (after (.stop 0) base) = some .wrongMode ∧ answer (after (.resume 0) running) = some .wrongMode := by
  decide +kernel

/-- RUN with the default severities: ZONE_OVERTEMP alone has severity STOP, and it is not active (R179, 12.4). -/
theorem test_witness_run_with_default_severities :
    (∀ k, (condEntry base.log k).severity = .stop → k = .zoneOvertemp) ∧ isActive base .zoneOvertemp = false ∧
      (∀ z : Fin 16, base.heat.zones[z].vars.overtemp = false) ∧ (after (.run 0) base).mgmt.mode = .run := by
  refine ⟨fun k => ?_, by decide +kernel⟩
  cases k <;> decide

/-- The sides and the requested level at RUN, FAULTSTOP and STOP (R97, R104, R126). -/
theorem test_witness_sides_at_the_hub_modes :
    let rows := withTarget 0 (target idleTarget) (withTarget 3 (target idleTarget) (withTarget 5 (target idleTarget)
      (withTarget 6 (target idleTarget) base)))
    let s := after (.setModeFeed 0 .right (some .auto)) (after (.setModeLevel 0 .left (some .grade)) rows)
    let r := after (.run 0) { s with voter := { s.voter with travelInput := 300, travelRight := true } }
    let f := settle (occur .zoneOvertemp r)
    let c := after (.stop 0) r
    let v := fun t : State => (t.level.left.vars.state, t.feed.right.vars.state, t.voter.requested)
    validateRun s = none ∧ v r = (.frozen, .sensorless, 3) ∧ v f = (.hold, .standby, 2) ∧
      v c = (.standby, .standby, 2) ∧ v (after (.resume 0) (setLevelKind .zoneOvertemp false f)) =
        (.standby, .standby, 2) ∧ r.level.right.vars = s.level.right.vars ∧ f.map.cause = .resumed ∧
      r.disp.targets[6].vars.outstanding.map (·.value) = some 3 := by decide +kernel

/-- The zones at RUN, STOP, FAULTSTOP and SET_MODE HEAT: by its temperature in RUN, FAULT without one, else IDLE, or
DISABLED with the heating master off; the demand reaches the records and the heating right the Voter (R66, R71). -/
theorem test_witness_zones_at_the_hub_modes :
    let on := fun (z : Nat) (temp : Option (Int × Bool)) => (⟨{ zoneEntryDefault z with
        enable := true
        primary := 1
        setpoint := 1400
        warmBand := 50
        first := 30
        last := 33
        rating := 2000
        buddy := none },
      { ZoneVars.reset with
        state := .disabled
        source := .primary
        temp := temp
        lineOn := true
        boost := 10 }⟩ : Zone)
    let s := { base with
      rmu := { base.rmu with sweepList := [1] }
      heat := { base.heat with zones := (base.heat.zones.set 8 (on 8 (some (1300, false)))).set 9 (on 9 none) } }
    let r := after (.run 0) s
    let h := after (.setModeHeat 0 (some true)) r
    let f := settle (occur .zoneOvertemp h)
    let c := after (.stop 0) h
    let d := after (.setModeHeat 0 (some false)) h
    let v := fun t : State => (t.heat.zones[8].vars.state, t.heat.zones[9].vars.state, t.heat.zones[8].vars.demand)
    let told := fun t : State => (t.power.records[8].demand, t.voter.heatRight, isActive t .zoneFault)
    validateRun s = none ∧ v r = (.disabled, .disabled, 0) ∧ v h = (.warmup, .fault, 255) ∧ v f = (.idle, .idle, 0) ∧
      v c = (.idle, .idle, 0) ∧ v d = (.disabled, .disabled, 0) ∧ told h = (255, true, true) ∧ h.voter.heatInput = 2000 ∧
      told f = (0, false, false) ∧ told c = (0, false, false) ∧ told d = (0, false, false) ∧
      (f.heat.zones[8].vars.lineOn, f.heat.zones[8].vars.boost) = (false, 0) := by decide +kernel

/-- The worked sequence of 12.4: an overheating plate. -/
theorem test_overheating_plate :
    let hot := { heated (zone (zoneEntryDefault 8) .regulate 1500) with
      mgmt := { running.mgmt with jobClock := 900 } }
    let s1 := after (.resume 0) (settle (refreshZone 8 2003 false hot))
    let s2 := after (.clearCondition 0 13) s1
    let s3 := refreshZone 8 1948 false s2
    let e := fun s : State => condEntry s.log .zoneOvertemp
    (s1.mgmt.mode, (e s1).count, (e s1).armed) = (.faultstop, 1, false) ∧ alarmLine s1 = true ∧
      ((e s2).count, (e s2).armed, (e s2).alarm) = (0, true, true) ∧ (e s2).release = true ∧
      alarmLine s3 = false ∧ (after (.resume 0) s3).mgmt.mode = .config := by decide +kernel

theorem test_witness_conditions_cleared :
    let s := { base with log := { base.log with
      entries := base.log.entries.set 5 ⟨3, 1, 2, false, false, true, false, .note⟩ } }
    let t := after (.clearCondition 0 255) s
    Ready s ∧ t.log.entries[5] = ⟨0, 0, 0, false, true, false, false, .note⟩ ∧
      (after (.clearCondition 0 24) s).log.entries[5] = s.log.entries[5] ∧
      answer (after (.clearCondition 0 25) s) = some .badValue := by
  unfold Ready
  decide +kernel

theorem test_witness_lines_cleared :
    let x : Line := ⟨base.rmu.lines[6].entry, { LineVars.reset with state := .failed, faults := 3 }⟩
    let s := { base with rmu := { base.rmu with lines := base.rmu.lines.set 6 x } }
    Ready s ∧ (after (.clearLine 0 7) s).rmu.lines[6].vars.state = .unknown ∧
      (after (.clearLine 0 8) s).rmu.lines[6].vars.state = .failed ∧
      answer (after (.clearLine 0 20) s) = some .badValue := by
  unfold Ready
  decide +kernel

theorem test_reset_control_falls_due_after_its_reply :
    (idle (after (.resetControl 0) base)).pending = [.controlReset] ∨
      .controlReset ∈ dueEvents (after (.resetControl 0) base) := by
  right
  decide +kernel

theorem test_control_reset_leaves_config :
    let t := after .controlReset { running with mgmt := { running.mgmt with jobClock := 7 } }
    (t.mgmt.mode, t.mgmt.jobClock, t.map.cause, t.heat.master) = (.config, 7, .controlReset, false) := by
  decide +kernel

/-- A class of 4: BAD_VALUE in CONFIG (R176), and in RUN the WRONG_MODE of R64's second check, as a change of the
class held. -/
theorem test_zone_class_of_four :
    let c := Instr.writeZoneEntry 0 8 { zoneEntryDefault 8 with cls := 4 }
    answer (after c base) = some .badValue ∧ answer (after c running) = some .wrongMode := by
  decide +kernel

theorem test_slope_to_grade_drops_its_target :
    let s := after (.setModeLevel 0 .left (some .slope)) running
    let t := after (.setModeLevel 0 .left (some .grade)) s
    s.level.left.vars.target = some 0 ∧ t.level.left.vars.target = none ∧
      t.level.left.vars.state = .frozen := by decide +kernel

theorem test_threshold_write_leaves_the_other_tables :
    let ts : Vector Nat 7 := #v[1, 2, 3, 4, 5, 6, 7]
    let t := after (.writeVoteTable 0 2 (.thresholds ts)) running
    t.voter.travel = ts ∧ (t.voter.heating, t.voter.feed, t.voter.downDelay) =
      (running.voter.heating, running.voter.feed, running.voter.downDelay) := by decide +kernel

/-- AUTO in RUN by the AUTO entry test (R125). -/
theorem test_witness_auto_entry :
    let x := fun b => withFeed { FeedVars.reset with held := some 200, fresh := b } running
    let s := fun m b => { x b with feed := { (x b).feed with motion := m } }
    let st := fun m b => (after (.setModeFeed 0 .left (some .auto)) (s m b)).feed.left.vars.state
    Ready (s .parked true) ∧ st .parked true = .paused ∧ st .stopped true = .running ∧
      st .forward false = .sensorless := by
  unfold Ready
  decide +kernel

/-- MGMT frames: STOP from the console, a code above 21, and STOP from another node (R8, R174). -/
theorem test_witness_mgmt_frames :
    let f := fun src chan => frameTo .mgmt running.bridge.ownNode src chan []
    let me := running.bridge.consoleNode
    let c := fun g : Frame => Instr.frameReceived .A true (wire g)
    let foreign := after (c (f 40 12)) running
    checkFrame true (wire (f me 12)) = some (f me 12) ∧ (after (c (f me 12)) running).mgmt.mode = .config ∧
      answer (after (c (f me 22)) base) = some .badValue ∧ foreign.mgmt.mode = .run ∧
      (condEntry foreign.log .mgmtForeign).count = 1 ∧ foreign.bridge.portA.discards = 1 := by decide +kernel

/-- Each check of RUN as the first that fails (R177). -/
theorem test_witness_run_checks :
    let zoneOf := fun x : ZoneEntry => { base with heat := { base.heat with
      zones := base.heat.zones.set 8 ⟨x, .reset⟩ } }
    let e := { zoneEntryDefault 8 with enable := true, primary := 1, spare := none, buddy := none }
    let listed := { base with rmu := { base.rmu with sweepList := [1] } }
    let inList := fun x : ZoneEntry => { zoneOf x with rmu := listed.rmu }
    let grade := after (.setModeLevel 0 .right (some .grade)) base
    let auto := after (.setModeFeed 0 .left (some .auto)) base
    let store := fun n : Nat => { base with archive := { base.archive with
      stored := ⟨n, 4, 512, .wrap, false⟩ } }
    validateRun { base with bridge := { base.bridge with consoleNode := base.bridge.ownNode } } = some (1, 0) ∧
      validateRun (withEntry 1 ⟨false, 20, 2, 0, 2, true, 1, 1, 0, 1, 1000⟩ base) = some (2, 1) ∧
      validateRun (withEntry 0 ⟨true, 20, 1, 0, 4, true, 1, 1, 0, 2, 1000⟩ base) = some (2, 0) ∧
      validateRun (zoneOf e) = some (3, 8) ∧ validateRun (inList e) = none ∧
      validateRun (inList { e with buddy := some 8 }) = some (3, 8) ∧
      validateRun (inList { e with spare := some 1 }) = some (3, 8) ∧
      validateRun (inList { e with first := 40, last := 39 }) = some (3, 8) ∧
      validateRun (inList { e with setpoint := 1800, boostMax := 200, ceiling := 2099 }) = some (3, 8) ∧
      validateRun (inList { e with setpoint := 1800, boostMax := 200, ceiling := 2100 }) = none ∧
      validateRun grade = some (4, 1) ∧ validateRun auto = some (4, 2) ∧
      validateRun (store 508) = none ∧ validateRun (store 509) = some (6, 0) := by decide +kernel

/-- RUN with a level kind of severity STOP active: its OK reply, and FAULTSTOP at once (R177, R179). -/
theorem test_witness_run_into_faultstop :
    let stopping := fun (i : Fin 25) => { base with log := { base.log with
      entries := base.log.entries.set i { CondEntry.reset .stop with active := true } } }
    let t := fun i => after (.run 0) (stopping i)
    Ready base ∧ ([(2 : Fin 25), 8, 10, 11, 17, 22].all fun i => (t i).mgmt.mode == .faultstop) = true ∧
      answer (t 17) = some .ok ∧ answer (after (.resume 0) (t 17)) = some .held := by
  unfold Ready
  decide +kernel

/-- Occurrences by severity, and a waiting notice replaced (R180, R181). -/
theorem test_witness_occurrences :
    let s := fun e : CondEntry => { running with log := { running.log with
      entries := running.log.entries.set 5 e } }
    let e := fun sev => condEntry (occur .guardBlock (s (.reset sev))).log .guardBlock
    let n := fun x : CondEntry => (occur .guardBlock (s x)).log.noticeCount
    let own := queued true none
    let full := { portUp with sending := some own, normalQ := List.replicate 16 own }
    let t := occur .guardBlock (linked full full (s (.reset .note)))
    let u := occur .guardBlock { t with log := { t.log with
      entries := t.log.entries.set 5 { CondEntry.reset .note with count := 255, firstTime := 3 } } }
    ((e .ignore).armed, (e .note).armed, (e .note).alarm, (e .alert).alarm) = (true, false, false, true) ∧
      (n (.reset .ignore), n (.reset .note), n { CondEntry.reset .note with armed := false }) =
        (0, 1, 0) ∧
      (condEntry u.log .guardBlock).count = 255 ∧ (condEntry u.log .guardBlock).firstTime = 3 ∧
      (t.log.waiting.length, u.log.waiting.length, u.log.noticeCount) = (1, 1, 2) ∧
      u.log.waiting ≠ t.log.waiting ∧ u.bridge = t.bridge := by decide +kernel

/-- An occurrence of severity STOP in RUN: every enabled target takes its neutral value (R141, R179). -/
theorem test_witness_stop_occurrence :
    let out : TargetVars := { idleTarget with outstanding := some ⟨147, 5, 1⟩, ackTimer := some 9 }
    let s := withTarget 1 (target out) (withTarget 0 (target idleTarget) running)
    let t := settle (occur .zoneOvertemp s)
    let u := after (.retrainAttemptEnds .B) { running with
      bridge := { running.bridge with portB := { PortRec.reset with retrains := 2 } }
      log := { running.log with entries := running.log.entries.set 3 (.reset .stop) } }
    (condEntry s.log .zoneOvertemp).severity = .stop ∧ t.mgmt.mode = .faultstop ∧
      t.disp.targets[0].vars.outstanding = some ⟨0, 6, 1⟩ ∧
      t.disp.targets[1].vars.outstanding.map (·.value) = some 147 ∧
      t.disp.targets[1].vars.pending = some 0 ∧ u.mgmt.mode = .faultstop ∧ isActive u .linkBDown = true ∧
      settle (occur .zoneOvertemp base) = occur .zoneOvertemp base := by decide +kernel

/-- A level kind's end with and without the release mark (R180, R183). -/
theorem test_witness_level_end :
    let s := fun r => { base with log := { base.log with
      entries := base.log.entries.set 8 { CondEntry.reset .alert with active := true, alarm := true, release := r } } }
    let e := fun r => condEntry (setLevelKind .slotStale false (s r)).log .slotStale
    ((e true).active, (e true).alarm, (e true).release) = (false, false, false) ∧
      ((e false).active, (e false).alarm) = (false, true) ∧ setLevelKind .slotStale true (s true) = s true := by
  decide +kernel

/-- STATUS and the READ requests give the fields that their rules list (R61, R98, R157, R172, R175). -/
theorem test_status_fields :
    let a := { writing with size := 300, stored := ⟨1, 5, 512, .halt, true⟩ }
    let s := { linked portUp portUp (heated (zone (zoneEntryDefault 8) .regulate 1400)) with archive := a }
    let s := { s with
      power := { s.power with records := recs }
      voter := { s.voter with heatInput := 10822, heatRight := true }
      rmu := { s.rmu with counting := some ⟨4, 1, .retry, none, none⟩, lastRef := some 8000 } }
    let field := fun c : Instr => (after c s).bridge.portA.sending.map (·.frame.body)
    field (.status 0 5) = some (.reply .ok (.archive ⟨.normal, 0, 4, 300, ⟨1, 5, 512, .halt, true⟩, .at 2 62, 1190,
        1000, 1189, 0, none, .idle, none, 0, 0, 0, 0⟩)) ∧
      field (.status 0 3) = some (.reply .ok (.power ⟨.normal, 20000, 0, 10822, (5, true), (0, false), (0, false),
        5, s.voter.requested, none⟩)) ∧
      field (.readLine 0 0) =
        some (.reply .ok (.reference (some 8000) none 0 false (some (4, .retry)))) := by decide +kernel

/-- Reports to the Voter in RUN: the requested level rises at once, the timer runs on, starts or stops, and
outside RUN the report alone is kept (R94 to R97). -/
theorem test_witness_votes_applied :
    let s := fun (n : Nat) (timer : Timer) => { running with
      voter := { running.voter with requested := n, timer := timer }
      disp := (withTarget 6 (target idleTarget) running).disp }
    let f := fun n timer => (reportVoter (fun v => { v with feedInput := 900, feedRight := true }) (s n timer))
    let v := fun n timer => ((f n timer).voter.requested, (f n timer).voter.timer)
    v 2 (some 9) = (6, none) ∧ (f 2 none).disp.targets[6].vars.outstanding = some ⟨6, 6, 1⟩ ∧
      v 6 (some 9) = (6, none) ∧ v 7 (some 9) = (7, some 9) ∧ v 7 none = (7, some 5000) ∧
      (reportVoter (fun v => { v with feedInput := 900, feedRight := true }) base).voter.requested = 2 := by
  decide +kernel

/-- An ACCEPTED temperature reaches the zone whose source line it is and, with its offset, clamped, a zone that
stands on it (R60, R68, R69). -/
theorem test_witness_line_report :
    let x := fun (e : ZoneEntry) (source : Source) => (⟨{ e with enable := true },
      { ZoneVars.reset with source := source, temp := some (900, false), age := 9, stale := true }⟩ : Zone)
    let e := { zoneEntryDefault 8 with spare := none, buddy := none, first := 30, last := 33 }
    let failed := { LineVars.reset with state := .failed }
    let s := { running with
      rmu := { running.rmu with lines := running.rmu.lines.set 1 ⟨lineEntry, failed⟩ }
      heat := { running.heat with
        master := true
        zones := ((running.heat.zones.set 8 (x { e with primary := 1 } .primary)).set 9
          (x { e with primary := 2, buddy := some 8, buddyOffset := 100 } .buddy)).set 10
          (x { e with primary := 3, spare := some 1 } .primary) } }
    let t := lineReport 1 (some (2950, false)) s
    let v := fun z : Fin 16 => (t.heat.zones[z].vars.temp, t.heat.zones[z].vars.age, t.heat.zones[z].vars.stale)
    v 8 = (some (2950, false), 0, false) ∧ v 9 = (some (3000, true), 0, false) ∧
      v 10 = (some (900, false), 9, true) ∧ t.heat.zones[8].vars.overtemp = true ∧
      isActive t .zoneOvertemp = true ∧ (lineReport 1 none s).heat.zones[8].vars.temp = some (900, false) := by
  decide +kernel

/-- An allocation lowers a zone's duty within the period and tells HEAT_SHED and the Voter (R80, R90, R92). -/
theorem test_witness_allocation_reaches_zones :
    let e := { zoneEntryDefault 0 with first := 30, last := 33 }
    let x := fun (duty : Nat) (on : Bool) => { zone e .regulate 1395 with
      vars := { (zone e .regulate 1395).vars with alloc := 255, periodDuty := duty, lineOn := on } }
    let s := { running with
      heat := { running.heat with elapsed := 900, zones := (running.heat.zones.set 2 (x 255 true)).set 4 (x 40 true) }
      power := { running.power with
        entry := { running.power.entry with nominal := 6000 }
        records := recs.map fun r => { r with alloc := 255 } } }
    let t := allocate s
    let v := fun z : Fin 16 => (t.heat.zones[z].vars.alloc, t.heat.zones[z].vars.shed,
      t.heat.zones[z].vars.periodDuty, t.heat.zones[z].vars.lineOn)
    v 2 = (103, true, 103, false) ∧ v 4 = (0, true, 0, false) ∧ isActive t .heatShed = true ∧
      t.map.standing.getLsbD 3 = true ∧ t.map.row.map (·.flags.getLsbD 3) = some true ∧
      t.voter.heatInput = 10822 := by decide +kernel

/-- A new motion state reaches the zones, both sides of levelling and feed, the Voter and the row (R37). -/
theorem test_witness_motion_report :
    let s := after (.setModeFeed 0 .right (some .auto)) (after (.setModeLevel 0 .left (some .grade)) running)
    let t := travelSpeed 300 s
    let u := after .parkTimerExpires (travelSpeed 0 t)
    s.level.left.vars.state = .frozen ∧ (t.level.left.vars.state, t.voter.travelRight) = (.acquire, true) ∧
      (s.feed.right.vars.state, t.voter.travelInput) = (.sensorless, 300) ∧
      (u.level.left.vars.state, u.level.left.vars.remembered) = (.frozen, some .acquire) ∧
      (u.feed.right.vars.state, u.travel.motion, u.voter.travelRight) = (.paused, .parked, false) ∧
      u.map.row.map (·.flags.getLsbD 1) = some true := by decide +kernel

/-- A station report has the sides evaluate their targets and closes the row crossed (R33, R118, R150). -/
theorem test_witness_station_report :
    let s := levelling .active 8 none (some (-100))
    let s := { s with
      level := { s.level with profile := s.level.profile.set 5 ⟨true, 40, 30, 0, 0⟩ }
      travel := { s.travel with baseline := some 0 } }
    let t := travelCount 60 s
    (t.level.left.vars.target, t.level.left.vars.beyond) = (some (-70), true) ∧
      isActive t .profileEnd = true ∧ t.map.row.map (·.start) = some 50 ∧ t.map.queue.length = 2 := by
  decide +kernel

/-- A suspended erase's timer at 0 is not due: it stands still until the erase goes on (R165). -/
theorem test_suspended_erase_is_not_due :
    let s := fun e => { base with archive := { base.archive with erase := e, eraseTimer := some 0 } }
    .eraseTimerExpires ∉ dueEvents (s (.suspended 3 1)) ∧ .eraseTimerExpires ∈ dueEvents (s (.erasing 3 1)) := by
  decide +kernel

/-- The effects of writes in RUN: a levelling release, a profile's targets, a feed curve, a budget and the vote
tables (R86, R93, R101, R116, R123). -/
theorem test_witness_write_effects :
    let side := { levelling .active 6 none (some (-100)) with
      travel := { running.travel with station := 500 } }
    let level := after (.writeLevellingEntry 0 0 ⟨8, 7, 6, 30, 10, 25, 80, 600⟩) side
    let frozen := after (.writeLevellingEntry 0 0 ⟨8, 7, 6, 30, 10, 25, 80, 600⟩) { side with level := { side.level with
      left := { side.level.left with vars := { side.level.left.vars with state := .frozen, remembered := some .active } } } }
    let point := after (.writeProfileEntry 0 9 ⟨true, 500, 10, 20, 30⟩) side
    let curve := feeding.feed.left.entry
    let feed := after (.writeFeedEntry 0 0 { curve with points := curve.points.map (fun x => (x.1, x.2 / 2)) }) feeding
    let heat := { running with power := { running.power with records := recs } }
    let budget := after (.writeBudget 0 0 { heat.power.entry with nominal := 6000 }) heat
    let floor := after (.writeVoteTable 0 3 (.floorDelay 5 9)) running
    (level.level.left.vars.state, level.level.left.vars.counter) = (.hold, 6) ∧
      frozen.level.left.vars.remembered = some .hold ∧
      (point.level.left.vars.target, point.level.left.vars.state) = (some (-90), .active) ∧
      (feeding.feed.left.vars.conveyor, feed.feed.left.vars.conveyor) = (600, 300) ∧
      (budget.power.records.toList.take 5).map (·.alloc) = [255, 200, 103, 103, 0] ∧
      isActive budget .heatShed = true ∧ (floor.voter.requested, floor.voter.timer) = (5, none) := by decide +kernel

/-- A zone write selects the source again, limits the boost and judges OVERTEMP by its new ceiling (R64). -/
theorem test_witness_zone_write_effects :
    let e := { zoneEntryDefault 8 with
      enable := true, primary := 1, spare := some 2, buddy := none, first := 30, last := 33 }
    let s := heated ⟨e, { ZoneVars.reset with source := .primary, temp := some (1900, false), boost := 90 }⟩
    let s := { s with rmu := { s.rmu with
      sweepList := [1], lines := s.rmu.lines.set 0 ⟨lineEntry, { LineVars.reset with state := .failed }⟩ } }
    let t := after (.writeZoneEntry 0 8 { e with ceiling := 1850, setpoint := 1500, boostMax := 20, enable := true }) s
    let u := after (.writeZoneEntry 0 8 { e with enable := false }) s
    t.mgmt.mode = .faultstop ∧ t.heat.zones[8].vars.overtemp = true ∧ t.heat.zones[8].vars.source = .primary ∧
      (u.heat.zones[8].vars.source, u.heat.zones[8].vars.state) = (.spare, .disabled) := by decide +kernel

/-- The threshold select written 0 puts the comparator's output and the sag monitor back (R86, R89). -/
theorem test_select_zero :
    let p := { running.power with
      entry := { running.power.entry with select := 3 }
      sag := .dipping
      debounce := some 7
      below := true }
    let t := after (.writeBudget 0 0 { p.entry with select := 0 }) { running with power := p }
    (t.power.sag, t.power.debounce, t.power.below) = (.normal, none, false) ∧ answer t = some .ok := by
  decide +kernel

end Sys2Proof.Tests
end

section
/-! SUPPORT. The conversion of a count at the counter's limits (4.6), and the health of a line over a run of like
results (4.8). -/

namespace Sys2Proof.Machine

/-! ### The counter's limits (R50) -/

/-- A count strictly inside the counter's range has no cause. -/
theorem countLimit_between (m : CountMode) {n : Nat} (hlo : 0 < n) (hhi : n < 65535) :
    countLimit m n = none := by
  cases m <;> simp [countLimit, Nat.ne_of_gt hlo, Nat.not_le.mpr hhi]

/-- A count at an end of the counter's range has a cause, in either mode. -/
theorem countLimit_at_end (m : CountMode) {n : Nat} (hn : n = 0 ∨ n = 65535) :
    ∃ cause, countLimit m n = some cause := by
  rcases hn with rfl | rfl <;> cases m <;> exact ⟨_, rfl⟩

theorem convert_of_limit {ref : ReferenceEntry} {e : SensorEntry} {nRef n : Nat} {cause : LineCause}
    (h : countLimit ref.mode n = some cause) : convert ref e nRef n = (.fails cause, none) := by
  simp only [convert, h]

theorem convert_resistance_of_no_limit {ref : ReferenceEntry} {e : SensorEntry} {nRef n : Nat}
    (h : countLimit ref.mode n = none) :
    (convert ref e nRef n).2 = some (resistance ref.mode ref.rRef nRef n) := by
  simp only [convert, h]
  split
  · rfl
  · split <;> rfl

/-! ### Recording a count (R49, R50) -/

@[simp] theorem modLine_vars_self (s : State) (line : Nat) (f : LineVars → LineVars) :
    (modLine s line f).rmu.lines[lineIx line].vars = f s.rmu.lines[lineIx line].vars :=
  congrArg (·.vars) (upd_self s.rmu.lines (lineIx line) fun x => { x with vars := f x.vars })

theorem recordCount_lastResistance {c : Counting} {nRef n : Nat} {s : State} (h : s.rmu.sweepRef = some nRef) :
    ((recordCount c n s).1.rmu.lines[lineIx c.line]).vars.lastResistance =
      (convert s.rmu.ref s.rmu.lines[lineIx c.line].entry nRef n).2 := by
  simp only [recordCount, h, modLine_vars_self]

theorem recordCount_reading {c : Counting} {nRef n : Nat} {s : State} (h : s.rmu.sweepRef = some nRef) :
    (recordCount c n s).2 = some (convert s.rmu.ref s.rmu.lines[lineIx c.line].entry nRef n).1 := by
  simp only [recordCount, h]

/-- Settles O24: `convert` follows `countLimit`, which answers at the two ends and nowhere between them. -/
theorem counterLimitsEndTheConversion : Obligations.CounterLimitsEndTheConversion := by
  refine ⟨fun ref e nRef => ⟨fun hmode => ?_, fun hmode => ?_, fun n hlo hhi => ?_⟩, fun c nRef s href n hn => ?_⟩
  · exact ⟨convert_of_limit (by rw [hmode]; rfl), convert_of_limit (by rw [hmode]; rfl)⟩
  · exact ⟨convert_of_limit (by rw [hmode]; rfl), convert_of_limit (by rw [hmode]; rfl)⟩
  · exact convert_resistance_of_no_limit (countLimit_between ref.mode hlo hhi)
  · obtain ⟨cause, hcause⟩ := countLimit_at_end s.rmu.ref.mode hn
    rw [recordCount_lastResistance href, recordCount_reading href, convert_of_limit hcause]
    exact ⟨rfl, fun t clamped h => nomatch h⟩

/-! ### One result and a line's health (R55 to R57) -/

theorem lineAccepted_of_not_failed {v : LineVars} (t : Int) (clamped : Bool) (h : v.state ≠ .failed) :
    lineAccepted t clamped v = { v with
      state := .good
      faults := 0
      lastAccepted := some t
      lastResult := some (if clamped then .acceptedClamped else .accepted) } := by
  simp only [lineAccepted, if_neg h]

theorem lineAccepted_failed_below {v : LineVars} (t : Int) (clamped : Bool) (h : v.state = .failed)
    (hr : v.recovery < 7) :
    (lineAccepted t clamped v).state = .failed ∧ (lineAccepted t clamped v).recovery = v.recovery + 1 := by
  simp only [lineAccepted, h, if_true, if_neg (Nat.not_le.mpr hr), and_self]

theorem lineAccepted_failed_eighth {v : LineVars} (t : Int) (clamped : Bool) (h : v.state = .failed)
    (hr : 7 ≤ v.recovery) : (lineAccepted t clamped v).state = .good := by
  simp only [lineAccepted, if_pos h, if_pos hr]

theorem lineFails_faults (c : LineCause) (v : LineVars) : (lineFails c v).faults = min (v.faults + 1) 255 := by
  simp only [lineFails]
  split
  · rfl
  · split <;> rfl

theorem lineFails_lastAccepted (c : LineCause) (v : LineVars) :
    (lineFails c v).lastAccepted = v.lastAccepted := by
  simp only [lineFails]
  split
  · rfl
  · split <;> rfl

theorem lineFails_of_failed (c : LineCause) {v : LineVars} (h : v.state = .failed) :
    (lineFails c v).state = .failed ∧ (lineFails c v).recovery = 0 := by
  simp only [lineFails, h, if_true, and_self]

theorem lineFails_before_third (c : LineCause) {v : LineVars} (h : v.state ≠ .failed) (hn : v.faults < 2) :
    (lineFails c v).state = .suspect := by
  have below : min (v.faults + 1) 255 < 3 := by omega
  simp only [lineFails, if_neg h, if_pos below]

theorem lineFails_third (c : LineCause) {v : LineVars} (h : v.state ≠ .failed) (hn : 2 ≤ v.faults) :
    (lineFails c v).state = .failed := by
  have reached : ¬min (v.faults + 1) 255 < 3 := by omega
  simp only [lineFails, if_neg h, if_neg reached]

/-! ### A run of like results (4.8) -/

theorem repeat_lineFails_lastAccepted (c : LineCause) (v : LineVars) (k : Nat) :
    (Nat.repeat (lineFails c) k v).lastAccepted = v.lastAccepted := by
  induction k with
  | zero => rfl
  | succ k ih => exact (lineFails_lastAccepted c _).trans ih

/-- Up to two FAILED results leave a line without faults not FAILED, and the fault count is their number. -/
theorem repeat_lineFails_counts (c : LineCause) {v : LineVars} (h : v.state ≠ .failed) (h0 : v.faults = 0)
    {k : Nat} (hk : k < 3) :
    (Nat.repeat (lineFails c) k v).state ≠ .failed ∧ (Nat.repeat (lineFails c) k v).faults = k := by
  induction k with
  | zero => exact ⟨h, h0⟩
  | succ k ih =>
    obtain ⟨hstate, hfaults⟩ := ih (by omega)
    have suspect := lineFails_before_third c hstate (by omega)
    refine ⟨fun failed => ?_, ?_⟩
    · exact absurd (suspect.symm.trans failed) (by decide)
    · calc (lineFails c (Nat.repeat (lineFails c) k v)).faults
          = min (k + 1) 255 := by rw [lineFails_faults, hfaults]
        _ = k + 1 := by omega

/-- Up to seven ACCEPTED results leave a FAILED line FAILED, and the recovery count is their number. -/
theorem repeat_lineAccepted_counts (t : Int) (clamped : Bool) {v : LineVars} (h : v.state = .failed)
    (h0 : v.recovery = 0) {k : Nat} (hk : k < 8) :
    (Nat.repeat (lineAccepted t clamped) k v).state = .failed ∧
      (Nat.repeat (lineAccepted t clamped) k v).recovery = k := by
  induction k with
  | zero => exact ⟨h, h0⟩
  | succ k ih =>
    obtain ⟨hstate, hrecovery⟩ := ih (by omega)
    obtain ⟨hfailed, hcount⟩ := lineAccepted_failed_below t clamped hstate (by omega)
    exact ⟨hfailed, by rw [Nat.repeat, hcount, hrecovery]⟩

theorem repeat_lineAccepted_eighth (t : Int) (clamped : Bool) {v : LineVars} (h : v.state = .failed)
    (h0 : v.recovery = 0) : (Nat.repeat (lineAccepted t clamped) 8 v).state = .good := by
  obtain ⟨hseven, rseven⟩ := repeat_lineAccepted_counts t clamped h h0 (k := 7) (by omega)
  rw [Nat.repeat]
  exact lineAccepted_failed_eighth t clamped hseven rseven.ge

/-- Settles O30: runs of FAILED and of ACCEPTED results are counted by the fault and the recovery count. -/
theorem lineHealth : Obligations.LineHealth := by
  intro v t clamped c
  refine ⟨fun h => ?_, fun h h0 => ?_, fun h => ?_⟩
  · rw [lineAccepted_of_not_failed t clamped h]
    exact ⟨rfl, rfl, rfl⟩
  · obtain ⟨hone, fone⟩ := repeat_lineFails_counts c h h0 (k := 1) (by omega)
    obtain ⟨htwo, ftwo⟩ := repeat_lineFails_counts c h h0 (k := 2) (by omega)
    exact ⟨lineFails_before_third c h (by omega), lineFails_before_third c hone (fone.trans_lt (by omega)),
      lineFails_third c htwo ftwo.ge, repeat_lineFails_lastAccepted c v 3⟩
  · obtain ⟨hfailed, hzero⟩ := lineFails_of_failed c h
    exact ⟨fun k hk => (repeat_lineAccepted_counts t clamped hfailed hzero hk).1,
      repeat_lineAccepted_eighth t clamped hfailed hzero⟩

end Sys2Proof.Machine
end

section
/-! SUPPORT. CLEAR_CONDITION (R183): the kinds that its number names, and what each of their entries becomes. -/

namespace Sys2Proof.Machine

/-! ### The kinds by their numbers (12.4) -/

theorem condKinds_getElem?_condNum (k : CondKind) : condKinds[(condNum k).val]? = some k := by
  cases k <;> rfl

theorem condNum_getElem_condKinds : ∀ i : Fin 25, condNum (condKinds[i.val]'i.isLt) = i := by decide

theorem condKinds_getElem?_eq_some_iff {n : Nat} {k : CondKind} :
    condKinds[n]? = some k ↔ n = (condNum k).val := by
  constructor
  · intro h
    obtain ⟨hlt, rfl⟩ := List.getElem?_eq_some_iff.mp h
    exact (congrArg Fin.val (condNum_getElem_condKinds ⟨n, hlt⟩)).symm
  · rintro rfl
    exact condKinds_getElem?_condNum k

theorem mem_condKinds (k : CondKind) : k ∈ condKinds := List.mem_of_getElem? (condKinds_getElem?_condNum k)

/-- The kinds that CLEAR_CONDITION's number names: all for 255, otherwise the one of that number. -/
def namedKinds (n : Nat) : List CondKind := if n = 255 then condKinds else condKinds[n]?.toList

theorem mem_namedKinds_iff {n : Nat} {k : CondKind} : k ∈ namedKinds n ↔ n = 255 ∨ n = (condNum k).val := by
  unfold namedKinds
  split
  · next h => simp [h, mem_condKinds]
  · next h => simp [h, condKinds_getElem?_eq_some_iff]

/-! ### Clearing entries (R183) -/

/-- What R183 makes of an entry: an active level kind keeps its alarm and takes the release mark, any other
entry loses its alarm. -/
theorem clearEntry_eq (k : CondKind) (e : CondEntry) :
    clearEntry k e = if isLevelKind k = true ∧ e.active = true then
        { e with count := 0, firstTime := 0, lastTime := 0, armed := true, release := true }
      else { e with count := 0, firstTime := 0, lastTime := 0, armed := true, alarm := false } := by
  split
  · next h => simp [clearEntry, h]
  · next h =>
    have off : (isLevelKind k && e.active) = false := by simpa using h
    simp [clearEntry, off]

/-- An entry cleared twice is as cleared once: clearing changes nothing that it depends on. -/
theorem clearEntry_clearEntry (k : CondKind) (e : CondEntry) :
    clearEntry k (clearEntry k e) = clearEntry k e := by
  simp [clearEntry]

theorem condEntry_clearKind (s : State) (j k : CondKind) :
    condEntry (clearKind s k).log j = if j = k then clearEntry k (condEntry s.log k) else condEntry s.log j :=
  condEntry_upd s.log j k (clearEntry k)

/-- Clearing kinds in turn clears the entry of each of them and leaves the other entries. -/
theorem condEntry_clearKinds (l : List CondKind) (s : State) (k : CondKind) :
    condEntry (l.foldl clearKind s).log k =
      if k ∈ l then clearEntry k (condEntry s.log k) else condEntry s.log k := by
  induction l generalizing s with
  | nil => simp
  | cons j l ih =>
    rw [List.foldl_cons, ih, condEntry_clearKind]
    by_cases hj : k = j
    · simp [hj, clearEntry_clearEntry]
    · simp [hj]

theorem clearKind_within {k : CondKind} {s : State} : Within [.conditions] s (clearKind s k) :=
  put_log .refl (h_severities := map_upd _ _ _ _ fun _ => rfl)

theorem clearKinds_within (l : List CondKind) (s : State) : Within [.conditions] s (l.foldl clearKind s) := by
  induction l generalizing s with
  | nil => exact .refl
  | cons k l ih => exact clearKind_within.trans (ih (clearKind s k))

/-- Clearing kinds changes the Condition Log alone. -/
theorem clearKinds_eq (l : List CondKind) (s : State) :
    l.foldl clearKind s = { s with log := (l.foldl clearKind s).log } := by
  induction l generalizing s with
  | nil => rfl
  | cons k l ih => exact ih (clearKind s k)

/-! ### The request (R183) -/

theorem conditionBody_of_named {n : Nat} (h : n ≤ 24 ∨ n = 255) (s : State) :
    conditionBody n s = ((namedKinds n).foldl clearKind s, plain .ok) := by
  unfold conditionBody namedKinds
  split
  · rfl
  · next hall =>
    have hlt : n < condKinds.length := Nat.lt_succ_of_le (h.resolve_right hall)
    simp [List.getElem?_eq_getElem hlt]

theorem conditionBody_of_unnamed {n : Nat} (hlo : 24 < n) (hall : n ≠ 255) (s : State) :
    conditionBody n s = (s, plain .badValue) := by
  have beyond : condKinds[n]? = none := List.getElem?_eq_none hlo
  simp only [conditionBody, if_neg hall, beyond]

/-- Settles O58: CLEAR_CONDITION folds `clearKind` over the kinds that its number names. -/
theorem conditionsAreCleared : Obligations.ConditionsAreCleared := by
  intro seq n s hready
  refine ⟨fun hlo hall => ?_, fun hn => ?_⟩
  · exact answers_of_served rfl rfl hready (conditionBody_of_unnamed hlo hall _)
  · have cleared := clearKinds_eq (namedKinds n) (begin 19 seq s)
    refine answersWith_of_served rfl rfl hready (conditionBody_of_named hn _)
      (clearKinds_within (namedKinds n) _).only (by decide) ?_ ?_ fun t ht k => ?_
    · rw [cleared]
      exact hready.2
    · rw [cleared]
      rfl
    · have entries : t.log.entries = ((namedKinds n).foldl clearKind (begin 19 seq s)).log.entries :=
        ht .conditions (by decide)
      have entry : condEntry t.log k =
          if k ∈ namedKinds n then clearEntry k (condEntry s.log k) else condEntry s.log k := by
        rw [← begin_log 19 seq s, ← condEntry_clearKinds]
        simp only [condEntry, entries]
      rw [entry]
      exact ⟨fun hall hk => if_neg (mem_namedKinds_iff.not.mpr (not_or.mpr ⟨hall, hk⟩)),
        fun named => (if_pos (mem_namedKinds_iff.mpr named)).trans (clearEntry_eq k _)⟩

end Sys2Proof.Machine
end
